-- ==== Sys2Proof/Word.lean ====
section
/-! DEFINITION. The word types of the LHEQ block (00_scope.md R11, R12; 20_memory.md R60). -/

namespace Sys2Proof

/-- A register, command word or output word: 32 bits, bit 0 the least significant (R11, R60). -/
abbrev Word := BitVec 32

/-- A 16-bit field: a sample, a bound, a step size (R12, R143). -/
abbrev Half := BitVec 16

/-- A symbol byte, or one byte lane of a bus word (R63, R87). -/
abbrev Byte := BitVec 8

/-- A hop index, or a rank of the priority table (R32, R86). -/
abbrev Nibble := BitVec 4

end Sys2Proof
end

