-- ==== Sys2Proof/Syntax.lean ====
section
/-! DEFINITION. The ten commands of opcode_table.json (30_encoding.md R81 to R83). -/

namespace Sys2Proof

/-- The mode operand of START (R82): bit 0 of the word, 0 encode, 1 decode. -/
inductive PassMode where
  | enc
  | dec
  deriving DecidableEq, Repr

/-- One command, its operand fields as R81 and R82 lay them out. The ignored operand of NOP and
ABORT is kept, so that every legal word is the encoding of exactly one command. -/
inductive Instr where
  | nop (hint : BitVec 28)
  | start (mode : PassMode)
  | end_
  | abort (ignored : BitVec 28)
  | enc (sample : Half)
  | qenc (sample : Half)
  | senc (hop : Nibble)
  | dec (sym : Byte)
  | qdec (hop : Nibble)
  | sdec (sym : Byte)
  deriving DecidableEq, Repr

end Sys2Proof
end

