-- ==== Sys2Proof/WellFormed.lean ====
section
/-! DEFINITION. Which commands a program may be written with: the operand ranges of 30_encoding.md
R94. Every other operand fits its field by its type; only a hop index has a narrower range (0 to
14) than its field. A word with hop index 15 is still a legal encoding (R83), it is decoded and
executed, and it always faults HOP in its pass (42_reconstructor.md R151). -/

namespace Sys2Proof

/-- The operand is one that the assembler of R94 accepts. -/
def Instr.wellFormed : Instr → Bool
  | .nop _ => true
  | .start _ => true
  | .end_ => true
  | .abort _ => true
  | .enc _ => true
  | .qenc _ => true
  | .senc hop => decide (hop.toNat ≤ 14)
  | .dec _ => true
  | .qdec hop => decide (hop.toNat ≤ 14)
  | .sdec _ => true

end Sys2Proof
end

