-- ==== Sys2Proof/Decode.lean ====
section
/-! DEFINITION. The decoder and encoder of command words (30_encoding.md R80 to R85) and the opcode
map as data (R83). Decoding is total: every word is one command or is illegal, with the reason. -/

namespace Sys2Proof

/-- Why a word is no command. Executed outside FAULT it raises `Fault(OPCODE)` either way. -/
inductive Illegal where
  /-- `OPC` in 0xA to 0xF (R84). -/
  | reservedOpcode (opc : Nibble)
  /-- A 1 in a bit that the format of `opc` marks 0 (R85). -/
  | reservedBits (opc : Nibble)
  deriving DecidableEq, Repr

/-- The mode of START from its operand bit, and back (R82). -/
def PassMode.ofBit (b : BitVec 1) : PassMode := if b = 0 then .enc else .dec

def PassMode.toBit : PassMode → BitVec 1
  | .enc => 0
  | .dec => 1

/-- A field of a word: `width` bits from bit `lo` up (R11). -/
def field (w : Word) (lo width : Nat) : BitVec width := w.extractLsb' lo width

/-- The command of a word (R81 to R85). -/
def decode (w : Word) : Except Illegal Instr :=
  let opc := field w 28 4
  if opc = 0x0 then .ok (.nop (field w 0 28))
  else if opc = 0x1 then
    if field w 1 27 = 0 then .ok (.start (.ofBit (field w 0 1))) else .error (.reservedBits opc)
  else if opc = 0x2 then
    if field w 0 28 = 0 then .ok .end_ else .error (.reservedBits opc)
  else if opc = 0x3 then .ok (.abort (field w 0 28))
  else if opc = 0x4 then
    if field w 16 12 = 0 then .ok (.enc (field w 0 16)) else .error (.reservedBits opc)
  else if opc = 0x5 then
    if field w 16 12 = 0 then .ok (.qenc (field w 0 16)) else .error (.reservedBits opc)
  else if opc = 0x6 then
    if field w 4 24 = 0 then .ok (.senc (field w 0 4)) else .error (.reservedBits opc)
  else if opc = 0x7 then
    if field w 8 20 = 0 then .ok (.dec (field w 0 8)) else .error (.reservedBits opc)
  else if opc = 0x8 then
    if field w 4 24 = 0 then .ok (.qdec (field w 0 4)) else .error (.reservedBits opc)
  else if opc = 0x9 then
    if field w 8 20 = 0 then .ok (.sdec (field w 0 8)) else .error (.reservedBits opc)
  else .error (.reservedOpcode opc)

/-- A field of a word set in place: `v` from bit `lo` up, every other bit 0 (R11). -/
def place {width : Nat} (v : BitVec width) (lo : Nat) : Word := v.setWidth 32 <<< lo

/-- The word of a command (R81): opcode and operand in place, reserved bits 0. -/
def encode : Instr → Word
  | .nop hint => place 0x0#4 28 ||| place hint 0
  | .start mode => place 0x1#4 28 ||| place mode.toBit 0
  | .end_ => place 0x2#4 28
  | .abort ignored => place 0x3#4 28 ||| place ignored 0
  | .enc sample => place 0x4#4 28 ||| place sample 0
  | .qenc sample => place 0x5#4 28 ||| place sample 0
  | .senc hop => place 0x6#4 28 ||| place hop 0
  | .dec sym => place 0x7#4 28 ||| place sym 0
  | .qdec hop => place 0x8#4 28 ||| place hop 0
  | .sdec sym => place 0x9#4 28 ||| place sym 0

/-- A row of the opcode map: the word is the row's command when `w &&& mask = pattern` (R83). -/
structure OpcodeRow where
  mnemonic : String
  pattern : Word
  mask : Word
  deriving DecidableEq, Repr

/-- The opcode map of R83, row for row. -/
def opcodeMap : List OpcodeRow :=
  [ ⟨"NOP", 0x00000000, 0xF0000000⟩, ⟨"START", 0x10000000, 0xFFFFFFFE⟩,
    ⟨"END", 0x20000000, 0xFFFFFFFF⟩, ⟨"ABORT", 0x30000000, 0xF0000000⟩,
    ⟨"ENC", 0x40000000, 0xFFFF0000⟩, ⟨"QENC", 0x50000000, 0xFFFF0000⟩,
    ⟨"SENC", 0x60000000, 0xFFFFFFF0⟩, ⟨"DEC", 0x70000000, 0xFFFFFF00⟩,
    ⟨"QDEC", 0x80000000, 0xFFFFFFF0⟩, ⟨"SDEC", 0x90000000, 0xFFFFFF00⟩ ]

/-- The mnemonic of a command (R83). -/
def Instr.mnemonic : Instr → String
  | .nop _ => "NOP"
  | .start _ => "START"
  | .end_ => "END"
  | .abort _ => "ABORT"
  | .enc _ => "ENC"
  | .qenc _ => "QENC"
  | .senc _ => "SENC"
  | .dec _ => "DEC"
  | .qdec _ => "QDEC"
  | .sdec _ => "SDEC"

/-- Whether a word matches a row of the opcode map (R83). -/
def OpcodeRow.matchesWord (r : OpcodeRow) (w : Word) : Bool := decide (w &&& r.mask = r.pattern)

/-- The host's view of the decoder: the command of the table word `w` of `nbits` bits. Every row has
32 bits, so a command is one word and no operand word follows it (R80). -/
def decodeTableWord (nbits w : Nat) : Option Instr :=
  if nbits ≤ 32 then (decode (BitVec.ofNat 32 (w % 2 ^ nbits))).toOption else none

end Sys2Proof
end

