-- ==== Sys2Proof/Config.lean ====
section
/-! DEFINITION. What an instance of the block fixes (00_scope.md R8, R10), the configuration of a
pass (R9), and the free values of the model (93_implementation_defined.md I1, I4, I5). -/

namespace Sys2Proof

/-- `predictorMode` (10_state.md R24): bit `PMODE` 0 or 1. -/
inductive PredictorMode where
  | zeroOrderHold
  | linear
  deriving DecidableEq, Repr

/-- The configuration fields of 10_state.md R24 to R33, reserved bits left out because they read 0
and ignore writes (R34). The live registers and the configuration latched by a channel (R44) are
both of this type. -/
structure PassConfig where
  numLevels : BitVec 4
  pmode : PredictorMode
  shrinkBand : BitVec 3
  expNum : BitVec 8
  expDen : BitVec 8
  rangeFactor : Word
  maxRatio : Word
  stepMin : Half
  stepMax : Half
  stepDec : Half
  minSample : Half
  maxSample : Half
  sampleCount : BitVec 31
  /-- `PRIO[0]` to `PRIO[7]`, `PRIO[h]` in bits `[4h+3:4h]` (R32). -/
  prioLo : Word
  /-- `PRIO[8]` to `PRIO[14]`, `PRIO[h]` in bits `[4(h-8)+3:4(h-8)]` (R33). -/
  prioHi : BitVec 28
  deriving DecidableEq, Repr

/-- How many channel engines the instance has (R8, R208). -/
inductive NumChannels where
  | one
  | two
  deriving DecidableEq, Repr

/-- The tie rule at the outermost level (41_quantizer.md R130). -/
inductive Tie where
  | inner
  | outer
  deriving DecidableEq, Repr

/-- `OUTER_TIE(NL)`, one value per legal alphabet size (R10, R130, I2). -/
structure OuterTie where
  nl3 : Tie
  nl5 : Tie
  nl7 : Tie
  nl9 : Tie
  nl11 : Tie
  nl13 : Tie
  nl15 : Tie
  deriving DecidableEq, Repr

/-- Which instantiation of `OFFSET_FN` the instance has (R10, R122, I1): the reference `OFFSET_REF`,
or some other one, of which only the properties of R124 are known. -/
inductive OffsetFn where
  | reference
  | implementation
  deriving DecidableEq, Repr

/-- The parameters of one instance of the block (R8, R10). They are held in the state, where no step
writes them, so that a statement about every state holds for every instance. -/
structure Params where
  numChannels : NumChannels
  cmdqDepth : BitVec 8
  outqDepth : BitVec 8
  /-- The address of the window in the host's address space (R8, I18): OPEN in the spec. -/
  blockBase : Nat
  offsetFn : OffsetFn
  outerTie : OuterTie
  /-- Which of I6's two models of a full output queue holds: `false`, the spec's own unbounded queue
  (10_state.md R48); `true`, the hardware's stall (70_reset_and_hazards.md R228). -/
  holdOutput : Bool
  deriving DecidableEq, Repr

/-- The parameters are legal (R8): both queue depths lie in 1 to 255, the upper end by their width. The
other parameters have only legal values by their types. -/
def Params.legal (p : Params) : Bool :=
  decide (1 ≤ p.cmdqDepth.toNat) && decide (1 ≤ p.outqDepth.toNat)

/-- The defaults of R8 and R10, the reference offset and `INNER` ties (log entries 4 to 7).
DESIGN CHOICE: `blockBase` is OPEN in the spec, and `holdOutput` selects R48's model. -/
def Params.default : Params where
  numChannels := .two
  cmdqDepth := 16
  outqDepth := 64
  blockBase := 0
  offsetFn := .reference
  outerTie := ⟨.inner, .inner, .inner, .inner, .inner, .inner, .inner⟩
  holdOutput := false

/-- FREE VALUE (I1, log entry 5): the offset of an instance other than the reference, a function of
the latched configuration, the step size, the distance and the level alone (R124). -/
opaque Config.offsetFn : PassConfig → Half → Nat → Nat → Nat

/-- FREE VALUE (I4, log entry 2): which of the agents that can move moves, by draw number. -/
opaque Config.freeTurn : Nat → Nat

/-- FREE VALUE (I5, log entry 8): whether a START latches the replaced value of a register that was
written while it was queued, by draw number. -/
opaque Config.freeLatch : Nat → Bool

/-- FREE VALUE (I5, log entry 9): whether a write to `CH_FIRST_AMP` made while commands are queued is
performed, by draw number. -/
opaque Config.freeSeedWrite : Nat → Bool

end Sys2Proof
end

