-- ==== Sys2Proof/Machine/State.lean ====
section
/-! DEFINITION. The state of the block as plain data: the live configuration, two channels, the
instance parameters, and the model's own view of the host (10_state.md; INVENTORY.md, State). -/

namespace Sys2Proof.Machine

/-- A channel engine (R35, R208). -/
inductive Chan where
  | ch0
  | ch1
  deriving DecidableEq, Repr

/-- `CH_STATUS.STATE` (R39). -/
inductive ChState where
  | idle
  | encode
  | decode
  | fault
  deriving DecidableEq, Repr

/-- `CH_STATUS.ERR_CODE` (60_exceptions.md R191). Codes 10 to 15 are never produced (I7). -/
inductive ErrCode where
  | none
  | config
  | state
  | opcode
  | sample
  | hop
  | symbol
  | run
  | count
  | overflow
  deriving DecidableEq, Repr

/-- The ten configuration registers (R24 to R33). -/
inductive CfgReg where
  | mode
  | exp
  | rfact
  | maxr
  | step
  | stepDec
  | bounds
  | count
  | prioLo
  | prioHi
  deriving DecidableEq, Repr

/-- A command word waiting in a command queue (R47). `raced` is the model's own: the values that
writes to configuration registers replaced while the word, a START, was waiting (R224, I5). -/
structure Queued where
  word : Word
  raced : List (CfgReg × Word)
  deriving DecidableEq, Repr

/-- The configuration at reset (R53). -/
def PassConfig.reset : PassConfig where
  numLevels := 9
  pmode := .zeroOrderHold
  shrinkBand := 1
  expNum := 3
  expDen := 1
  rangeFactor := 0x00010000
  maxRatio := 0x00040000
  stepMin := 4
  stepMax := 64
  stepDec := 4
  minSample := 0x8000
  maxSample := 0x7FFF
  sampleCount := 0x7FFFFFFF
  prioLo := 0x53102468
  prioHi := 0xEDCBA97

/-- The state of one channel (R36 to R48). -/
structure Channel where
  /-- `STATE` (R39). -/
  state : ChState
  /-- `DONE` (R110). -/
  done : Bool
  /-- `ERR_CODE` (R191). -/
  err : ErrCode
  /-- `FIRST_AMP` (R40). -/
  firstAmp : Half
  /-- `SYM_COUNT` (R41). -/
  symCount : Word
  /-- `CFG`, the latched configuration (R44). -/
  cfg : PassConfig
  /-- `i` (R45). -/
  idx : Word
  /-- `r1`, `lastReconstructed` (R45). -/
  r1 : Half
  /-- `r2`, `secondLastReconstructed` (R45). -/
  r2 : Half
  /-- `STEP` (R45). -/
  stepSize : Half
  /-- `LWS`, `lastWasSmall` (R45). -/
  lws : Bool
  /-- `X`, `x_length` (R46). -/
  xlen : Word
  /-- `n`, the run count (R46). -/
  run : Word
  /-- The command queue, oldest first (R47). -/
  cmdQ : List Queued
  /-- The output queue, oldest first (R48). -/
  outQ : List Word
  /-- The model's own history: every word the channel has emitted, oldest first (R236). -/
  emitted : List Word
  deriving DecidableEq, Repr

/-- A channel at reset (R53). -/
def Channel.reset : Channel where
  state := .idle
  done := false
  err := .none
  firstAmp := 0
  symCount := 0
  cfg := PassConfig.reset
  idx := 0
  r1 := 0
  r2 := 0
  stepSize := 0
  lws := false
  xlen := 8
  run := 0
  cmdQ := []
  outQ := []
  emitted := []

/-- The width of a bus access (20_memory.md R61). -/
inductive Width where
  | byte
  | half
  | word
  deriving DecidableEq, Repr

/-- What the host can do to the block (R60, R215, R234): a bus access at an address of its own
address space, or the platform's hardware reset. -/
inductive HostEvent where
  | read (width : Width) (addr : Nat)
  | write (width : Width) (addr : Nat) (value : Word)
  | hardReset
  deriving DecidableEq, Repr

/-- Who takes a step (R3, R69, R73). -/
inductive Agent where
  | host
  | engine (c : Chan)
  deriving DecidableEq, Repr

/-- The whole machine. -/
structure State where
  /-- The instance parameters (R8, R10). No step writes them. -/
  params : Params
  /-- The live configuration registers (R24 to R33). -/
  live : PassConfig
  ch0 : Channel
  ch1 : Channel
  /-- The model's own: the channel whose engine takes this step. -/
  active : Chan
  /-- The model's own: the race record of the word being executed (I5). -/
  raced : List (CfgReg × Word)
  /-- The model's own: what the host has yet to do, in order (R69). -/
  host : List HostEvent
  /-- The model's own: the words returned to the host, oldest first. -/
  readLog : List Word
  /-- The model's own: who moves next, while it lasts (R73). -/
  schedule : List Agent
  /-- The model's own: how many free values have been taken. -/
  draws : Nat
  deriving DecidableEq, Repr

/-- The block after reset (R53, R217), an instance with the default parameters, nothing to do. -/
def State.reset : State where
  params := Params.default
  live := PassConfig.reset
  ch0 := Channel.reset
  ch1 := Channel.reset
  active := .ch0
  raced := []
  host := []
  readLog := []
  schedule := []
  draws := 0

/-- Why the machine stops for good. -/
inductive Fault where
  /-- Raised by `step`: no agent can move and a command waits on a full output queue that nobody
  will read, the hang of R228 and I6 (only where `holdOutput` selects it). Safe: the model stops
  where the hardware stands still. -/
  | outputStall
  deriving DecidableEq, Repr

/-- Why a step has no meaning in this model. -/
inductive Refusal where
  /-- Raised by no instruction: every command has its meaning. Safe. -/
  | notModelled (mnemonic : String)
  /-- Raised by a bus access of 8 or 16 bits (R61, I3: refuse). Safe. -/
  | narrowAccess
  /-- Raised by a bus access at no multiple of 4 from `BLOCK_BASE` (R62, I3: refuse). Safe. -/
  | misalignedAccess
  /-- Raised by a bus access outside the window of R20: it reaches another device of the host
  (R67). Safe. -/
  | outsideWindow
  /-- Raised by SENC, ENC and SDEC when the grow rule would make the threshold `X` reach `2^32`
  (R177, I9: refuse). Safe. -/
  | thresholdBeyondSpec
  deriving DecidableEq, Repr

end Sys2Proof.Machine
end

