-- ==== Sys2Proof/Machine/Operands.lean ====
section
/-! DEFINITION. The arithmetic primitives (00_scope.md R12, R13), the operand views of the
configuration (R92, R93, R116, R156 to R158), the register words of the configuration (R24 to
R33), and the output words (R89, R90). -/

namespace Sys2Proof.Machine

/-! ### Arithmetic primitives (R12, R13) -/

/-- `floorDiv(a, b)`, for `b > 0`. -/
def floorDiv (a b : Int) : Int := a / b

/-- `min(max(v, lo), hi)`, the low bound first (R118, R127). -/
def clampTo (lo hi v : Int) : Int := min (max v lo) hi

/-- The bits of `iroot(x, n)` below weight `2^bits`, added to what is known of it. -/
def irootBits (x n : Nat) : Nat → Nat → Nat
  | 0, known => known
  | bits + 1, known =>
    if (known + 2 ^ bits) ^ n ≤ x then irootBits x n bits (known + 2 ^ bits)
    else irootBits x n bits known

/-- `iroot(x, n)`: the greatest `t` with `t^n ≤ x`, for `n ≥ 1` (R13). -/
def iroot (x n : Nat) : Nat := irootBits x n (Nat.log2 x / n + 1) 0

/-- A sample value written into a 16-bit field: `v mod 2^16` (R12). -/
def toHalf (v : Int) : Half := BitVec.ofInt 16 v

/-! ### The configuration as operands -/

/-- `NL` (R116). -/
def nlOf (c : PassConfig) : Nat := c.numLevels.toNat

/-- `K`, the index of the null hop (R86, R116). -/
def kOf (c : PassConfig) : Nat := (nlOf c - 1) / 2

/-- `MIN` (R116). -/
def minOf (c : PassConfig) : Int := c.minSample.toInt

/-- `MAX` (R116). -/
def maxOf (c : PassConfig) : Int := c.maxSample.toInt

/-- `RANGE` (R116). -/
def rangeOf (c : PassConfig) : Int := maxOf c - minOf c

/-- A sample lies in `[MIN, MAX]` (R144, and the seed check of R102). -/
def inBounds (c : PassConfig) (o : Half) : Bool :=
  decide (minOf c ≤ o.toInt) && decide (o.toInt ≤ maxOf c)

/-- `PRIO[h]`, for `h` in 0 to 14 (R32, R33). -/
def prioOf (c : PassConfig) (h : Nat) : Nibble :=
  if h < 8 then field c.prioLo (4 * h) 4 else c.prioHi.extractLsb' (4 * (h - 8)) 4

/-- The ranks of the hop indices of a pass, in order of the hop index. -/
def ranksOf (c : PassConfig) : List Nat := (List.range (nlOf c)).map fun h => (prioOf c h).toNat

/-- The priority table is valid (R158). -/
def prioValid (c : PassConfig) : Bool :=
  (ranksOf c).isPerm (List.range (nlOf c)) && decide (prioOf c (kOf c) = 0)

/-- `valid(C)`, conditions (1) to (6) of R103. -/
def cfgValid (c : PassConfig) : Bool :=
  (decide (nlOf c % 2 = 1) && decide (3 ≤ nlOf c) && decide (nlOf c ≤ 15))
    && decide (1 ≤ c.stepMin.toNat)
    && decide (c.stepMin.toNat ≤ c.stepMax.toNat)
    && (decide (1 ≤ c.expNum.toNat) && decide (1 ≤ c.expDen.toNat))
    && decide (minOf c ≤ maxOf c)
    && prioValid c

/-- The symbol byte of a hop index (R156). -/
def rankOf (c : PassConfig) (h : Nibble) : Byte := (prioOf c h.toNat).setWidth 8

/-- `hopOf(r)`: the first hop index whose rank is `r`, which the table's validity makes the only one
(R157). -/
def hopOf (c : PassConfig) (r : Byte) : Nibble :=
  BitVec.ofNat 4 ((ranksOf c).findIdx fun rank => rank == r.toNat)

/-- The null hop's index `K` as a hop operand (R86, R171). -/
def nullHop (c : PassConfig) : Nibble := BitVec.ofNat 4 (kOf c)

/-- The meta-symbol `X` (R87). -/
def metaSym : Byte := 0x58

/-- `OUTER_TIE(NL)` (R130); sizes that no pass has (R103) follow the default. -/
def tieOf (t : OuterTie) : Nat → Tie
  | 3 => t.nl3
  | 5 => t.nl5
  | 7 => t.nl7
  | 9 => t.nl9
  | 11 => t.nl11
  | 13 => t.nl13
  | 15 => t.nl15
  | _ => .inner

/-! ### Register words of the configuration (R24 to R33) -/

def PredictorMode.bit : PredictorMode → BitVec 1
  | .zeroOrderHold => 0
  | .linear => 1

def PredictorMode.ofBit (b : BitVec 1) : PredictorMode :=
  if b = 0 then .zeroOrderHold else .linear

/-- What a read of a configuration register returns: its fields, reserved bits 0 (R34). -/
def cfgRead (c : PassConfig) : CfgReg → Word
  | .mode => place c.numLevels 0 ||| place (PredictorMode.bit c.pmode) 8 ||| place c.shrinkBand 16
  | .exp => place c.expNum 0 ||| place c.expDen 8
  | .rfact => c.rangeFactor
  | .maxr => c.maxRatio
  | .step => place c.stepMin 0 ||| place c.stepMax 16
  | .stepDec => place c.stepDec 0
  | .bounds => place c.minSample 0 ||| place c.maxSample 16
  | .count => place c.sampleCount 0
  | .prioLo => c.prioLo
  | .prioHi => place c.prioHi 0

/-- What a write to a configuration register leaves: its defined fields take the written bits, with
no check (R52), and reserved bits ignore them (R34). -/
def cfgWrite (c : PassConfig) (v : Word) : CfgReg → PassConfig
  | .mode => { c with numLevels := field v 0 4, pmode := PredictorMode.ofBit (field v 8 1),
                      shrinkBand := field v 16 3 }
  | .exp => { c with expNum := field v 0 8, expDen := field v 8 8 }
  | .rfact => { c with rangeFactor := v }
  | .maxr => { c with maxRatio := v }
  | .step => { c with stepMin := field v 0 16, stepMax := field v 16 16 }
  | .stepDec => { c with stepDec := field v 0 16 }
  | .bounds => { c with minSample := field v 0 16, maxSample := field v 16 16 }
  | .count => { c with sampleCount := field v 0 31 }
  | .prioLo => { c with prioLo := v }
  | .prioHi => { c with prioHi := field v 0 28 }

/-! ### Output words (R89, R90) -/

/-- The kinds of output word (R90). -/
inductive OutKind where
  | qrec
  | sym
  | drec
  | hop
  deriving DecidableEq, Repr

def OutKind.code : OutKind → BitVec 3
  | .qrec => 1
  | .sym => 2
  | .drec => 3
  | .hop => 4

/-- `VALID`, `KIND`, reserved 0, `HOP`, `DATA` (R89). -/
def outWord (kind : OutKind) (hop : Nibble) (data : Half) : Word :=
  place 1#1 31 ||| place kind.code 28 ||| place hop 16 ||| place data 0

def qrecWord (h : Nibble) (recon : Half) : Word := outWord .qrec h recon

def symWord (y : Byte) : Word := outWord .sym 0 (y.setWidth 16)

def drecWord (h : Nibble) (recon : Half) : Word := outWord .drec h recon

def hopWord (h : Nibble) : Word := outWord .hop h 0

/-! ### Bus lanes (20_memory.md R63) -/

/-- Lane `j` of a bus word: bits `[8j+7:8j]`, little-endian. -/
def laneOf (w : Word) (j : Nat) : Byte := field w (8 * j) 8

/-- The word of four byte lanes. -/
def ofLanes (l0 l1 l2 l3 : Byte) : Word :=
  place l0 0 ||| place l1 8 ||| place l2 16 ||| place l3 24

end Sys2Proof.Machine
end

