-- ==== Sys2Proof/Machine/Flags.lean ====
section
/-! DEFINITION. The status bits and the status word of a channel (10_state.md R38, R39, R49). -/

namespace Sys2Proof.Machine

def ChState.code : ChState → BitVec 2
  | .idle => 0
  | .encode => 1
  | .decode => 2
  | .fault => 3

def ErrCode.code : ErrCode → BitVec 4
  | .none => 0
  | .config => 1
  | .state => 2
  | .opcode => 3
  | .sample => 4
  | .hop => 5
  | .symbol => 6
  | .run => 7
  | .count => 8
  | .overflow => 9

/-- `BUSY` (R38). DEDUCED (log entry 1): a command is one atomic step (R3, R70), so between steps
none is executing and the queue alone decides. -/
def busyOf (ch : Channel) : Bool := !ch.cmdQ.isEmpty

/-- `IN_CHAIN`: the run count is not 0 (R46, R49). -/
def inChainOf (ch : Channel) : Bool := decide (ch.run ≠ 0)

/-- `LAST_SMALL` (R49). -/
def lastSmallOf (ch : Channel) : Bool := ch.lws

/-- `CMDQ_LEVEL` (R38). -/
def cmdqLevelOf (ch : Channel) : BitVec 8 := BitVec.ofNat 8 ch.cmdQ.length

/-- `OUTQ_LEVEL` (R38). -/
def outqLevelOf (ch : Channel) : BitVec 8 := BitVec.ofNat 8 (min 255 ch.outQ.length)

/-- `CH_STATUS` (R38). -/
def statusWord (ch : Channel) : Word :=
  place ch.state.code 0 ||| place (BitVec.ofBool (busyOf ch)) 2 ||| place (BitVec.ofBool ch.done) 3
    ||| place ch.err.code 4 ||| place (BitVec.ofBool (inChainOf ch)) 8
    ||| place (BitVec.ofBool (lastSmallOf ch)) 9 ||| place (cmdqLevelOf ch) 16
    ||| place (outqLevelOf ch) 24

/-- A hop is small: `abs(L) <= SHRINK_BAND` (R132, R133). -/
def isSmall (c : PassConfig) (level : Int) : Bool := decide (level.natAbs ≤ c.shrinkBand.toNat)

end Sys2Proof.Machine
end

