-- ==== Sys2Proof/Machine/Ops.lean ====
section
/-! DEFINITION. The named operations on channels and on the state: emitting, taking a channel fault
and leaving it, running a command on the channel that executes it, latching the configuration,
reset (R14, R193 to R195, R102, R216, R224). -/

namespace Sys2Proof.Machine

/-! ### One channel -/

/-- `emit(w)` (R14, R48): append to the output queue. -/
def Channel.emit (ch : Channel) (w : Word) : Channel :=
  { ch with outQ := ch.outQ ++ [w], emitted := ch.emitted ++ [w] }

/-- Emit words in order (R72). -/
def Channel.emitAll (ch : Channel) (ws : List Word) : Channel :=
  { ch with outQ := ch.outQ ++ ws, emitted := ch.emitted ++ ws }

/-- TAKING THE FAULT, `raise Fault(code)` (R193): `STATE <- FAULT`, `ERR_CODE <- code`, nothing
else. -/
def Channel.enterFault (ch : Channel) (code : ErrCode) : Channel :=
  { ch with state := .fault, err := code }

/-- LEAVING THE FAULT, and ending any pass, by ABORT (R107, R195): `IDLE`, no code, `DONE` 0, the
output queue emptied. -/
def Channel.abortPass (ch : Channel) : Channel :=
  { ch with state := .idle, err := .none, done := false, outQ := [] }

/-- Pass initialisation (R104), with the latched configuration already chosen. -/
def Channel.initPass (ch : Channel) (c : PassConfig) : Channel :=
  { ch with cfg := c, idx := 0, r1 := 0, r2 := 0, stepSize := c.stepMax, lws := false,
            xlen := 8, run := 0, symCount := 0 }

/-- `emitSym(y)` (R166): a SYM word, and `SYM_COUNT` grows by one. -/
def Channel.emitSym (ch : Channel) (y : Byte) : Channel :=
  { ch.emit (symWord y) with symCount := ch.symCount + 1 }

/-- `repeat n times: emitSym(0x00)` (R166, R168). -/
def Channel.emitCenters (ch : Channel) (n : Nat) : Channel :=
  { ch.emitAll (List.replicate n (symWord 0)) with symCount := ch.symCount + BitVec.ofNat 32 n }

/-- A channel after a reset (R216). The history of what was emitted is the model's own and stays. -/
def Channel.wipe (ch : Channel) : Channel := { Channel.reset with emitted := ch.emitted }

/-! ### The state -/

/-- Channel `c`'s state (R35). -/
def State.ch (s : State) : Chan → Channel
  | .ch0 => s.ch0
  | .ch1 => s.ch1

/-- Replace channel `c`'s state and nothing else. -/
def State.setCh (s : State) (c : Chan) (ch : Channel) : State :=
  match c with
  | .ch0 => { s with ch0 := ch }
  | .ch1 => { s with ch1 := ch }

/-- Whether the instance has channel `c` (R50). -/
def State.present (s : State) : Chan → Bool
  | .ch0 => true
  | .ch1 => decide (s.params.numChannels = .two)

/-- The reset of R216, the same for the platform's reset and for `CTRL.SRST` (R215): everything of
R53 in both channels at once. The instance parameters and the host's own side are not the block's. -/
def State.resetBlock (s : State) : State :=
  { s with live := PassConfig.reset, ch0 := s.ch0.wipe, ch1 := s.ch1.wipe }

/-! ### Commands -/

/-- What a command does in a channel that is not in FAULT: its whole effect, or a fault raised
before any write (R193), or a stop the spec calls for (I9). -/
inductive Verdict where
  | done (ch : Channel)
  | raise (code : ErrCode)
  | refuse (why : Refusal)
  deriving DecidableEq, Repr

/-- Run a command other than ABORT on the channel that executes it. In FAULT the command is
discarded without checks and without effect (R108, R194, R203). -/
def onActive (s : State) (command : Channel → Verdict) : Host.Outcome State Fault Refusal :=
  let ch := s.ch s.active
  if ch.state = .fault then .next s
  else
    match command ch with
    | .done ch' => .next (s.setCh s.active ch')
    | .raise code => .next (s.setCh s.active (ch.enterFault code))
    | .refuse why => .refused why

/-- The sample limit (R109, R183): `k` more samples would make `i` exceed `SAMPLE_COUNT`. -/
def overCount (ch : Channel) (k : Nat) : Bool :=
  decide (ch.cfg.sampleCount.toNat < ch.idx.toNat + k)

/-- The hop check (R151). -/
def hopOutOfRange (c : PassConfig) (h : Nibble) : Bool := decide (nlOf c ≤ h.toNat)

/-! ### Latching the configuration (R44, R77, R102, R224) -/

/-- The configuration with some of the replaced values put back, draw by draw: a START that was
waiting while a register was written latches the old or the new value (R224, I5). -/
def withRaces (c : PassConfig) : List (CfgReg × Word) → Nat → PassConfig
  | [], _ => c
  | (r, old) :: rest, d =>
    withRaces (if Config.freeLatch d then cfgWrite c old r else c) rest (d + 1)

/-- The configuration that a START executed now latches: the live registers (R77), but for the
registers written while it waited (R224). -/
def State.latched (s : State) : PassConfig := withRaces s.live s.raced s.draws

/-- The draws of a START's latch are taken. -/
def State.tookLatch (s : State) : State := { s with draws := s.draws + s.raced.length }

/-- Whether a waiting word is a START (R224). -/
def Queued.isStart (q : Queued) : Bool :=
  match decode q.word with
  | .ok (.start _) => true
  | _ => false

/-- Record in a waiting START that register `r` held `old` before a write (R224, I5). -/
def Queued.noteWrite (r : CfgReg) (old : Word) (q : Queued) : Queued :=
  if q.isStart then { q with raced := q.raced ++ [(r, old)] } else q

/-- The record of a configuration write, in every waiting START of a channel. -/
def Channel.noteWrite (ch : Channel) (r : CfgReg) (old : Word) : Channel :=
  { ch with cmdQ := ch.cmdQ.map (Queued.noteWrite r old) }

end Sys2Proof.Machine
end

