-- ==== Sys2Proof/Machine/Bus.lean ====
section
/-! DEFINITION. The register window and the host's accesses to it (10_state.md R20 to R43,
20_memory.md R60 to R79, 60_exceptions.md R198). -/

namespace Sys2Proof.Machine

/-- A channel register (R36 to R43). -/
inductive ChReg where
  | cmd
  | out
  | status
  | firstAmp
  | symCount
  | index
  | step
  | recon
  | xlen
  | run
  deriving DecidableEq, Repr

/-- What lies at an offset of the window (R20). -/
inductive Reg where
  | id
  | hwcfg
  | ctrl
  | cfg (r : CfgReg)
  | chan (c : Chan) (r : ChReg)
  | reserved
  deriving DecidableEq, Repr

/-- The register of a channel at an offset from the channel's own base, if it is not reserved
(R20). -/
def chRegAt (off : Nat) : Option ChReg :=
  match off with
  | 0x00 => some .cmd
  | 0x04 => some .out
  | 0x08 => some .status
  | 0x0C => some .firstAmp
  | 0x10 => some .symCount
  | 0x14 => some .index
  | 0x18 => some .step
  | 0x1C => some .recon
  | 0x20 => some .xlen
  | 0x24 => some .run
  | _ => none

/-- A channel register as a register of the window; an absent one is reserved (R34). -/
def regOfChan (c : Chan) : Option ChReg → Reg
  | some r => .chan c r
  | none => .reserved

/-- The global register at an offset below 0x100 (R20). -/
def globalRegAt (off : Nat) : Reg :=
  match off with
  | 0x000 => .id
  | 0x004 => .hwcfg
  | 0x008 => .ctrl
  | 0x010 => .cfg .mode
  | 0x014 => .cfg .exp
  | 0x018 => .cfg .rfact
  | 0x01C => .cfg .maxr
  | 0x020 => .cfg .step
  | 0x024 => .cfg .stepDec
  | 0x028 => .cfg .bounds
  | 0x02C => .cfg .count
  | 0x030 => .cfg .prioLo
  | 0x034 => .cfg .prioHi
  | _ => .reserved

/-- The register at an offset of the window. Channel 1's registers are reserved offsets where there
is no channel 1 (R20, R34, R50). -/
def regAt (channels : NumChannels) (off : Nat) : Reg :=
  if off < 0x100 then globalRegAt off
  else if off < 0x140 then regOfChan .ch0 (chRegAt (off - 0x100))
  else if off < 0x180 then
    match channels with
    | .two => regOfChan .ch1 (chRegAt (off - 0x140))
    | .one => .reserved
  else .reserved

/-- The constant `ID` (R21). -/
def idWord : Word := 0x4C484501

/-- `NUM_CHANNELS` as HWCFG shows it (R22). -/
def NumChannels.code : NumChannels → BitVec 2
  | .one => 1
  | .two => 2

/-- `HWCFG` (R22). -/
def hwcfgWord (p : Params) : Word :=
  place (NumChannels.code p.numChannels) 0 ||| place 15#4 4 ||| place p.cmdqDepth 8
    ||| place p.outqDepth 16

/-- What a read of a channel register returns (R36 to R43). -/
def chRead (ch : Channel) : ChReg → Word
  | .cmd => 0
  | .out => ch.outQ.headD 0
  | .status => statusWord ch
  | .firstAmp => place ch.firstAmp 0
  | .symCount => ch.symCount
  | .index => ch.idx
  | .step => place ch.stepSize 0
  | .recon => place ch.r1 0 ||| place ch.r2 16
  | .xlen => ch.xlen
  | .run => ch.run

/-- The side effect of a read: `CH_OUT` pops (R37, R64), no other read has one. -/
def chAfterRead (ch : Channel) : ChReg → Channel
  | .out => { ch with outQ := ch.outQ.tail }
  | _ => ch

/-- What a read of a register returns (R21 to R43); reserved offsets and CTRL read 0 (R23, R34). -/
def regRead (s : State) : Reg → Word
  | .id => idWord
  | .hwcfg => hwcfgWord s.params
  | .ctrl => 0
  | .cfg r => cfgRead s.live r
  | .chan c r => chRead (s.ch c) r
  | .reserved => 0

/-- The state after a read of a register (R64). -/
def regAfterRead (s : State) : Reg → State
  | .chan c r => s.setCh c (chAfterRead (s.ch c) r)
  | _ => s

/-- A write to `CH_CMD` (R36, R47, R198): append the word, or lose it and raise OVERFLOW unless the
channel is in FAULT. -/
def pushCmd (depth : Nat) (ch : Channel) (w : Word) : Channel :=
  if ch.cmdQ.length < depth then { ch with cmdQ := ch.cmdQ ++ [⟨w, []⟩] }
  else if ch.state = .fault then ch
  else ch.enterFault .overflow

/-- `CH_FIRST_AMP` may be written: the channel is in IDLE or FAULT (R40). -/
def seedWritable (ch : Channel) : Bool := decide (ch.state = .idle ∨ ch.state = .fault)

/-- A write to `CH_FIRST_AMP` is performed (R40). While commands are queued in a state that allows
it, whether it is performed is a draw (R225, I5, log entry 9). -/
def seedPerformed (ch : Channel) (draw : Nat) : Bool :=
  seedWritable ch && (!busyOf ch || Config.freeSeedWrite draw)

/-- A write of `v` to a channel register (R36 to R43, R65): only `CH_CMD` and `CH_FIRST_AMP` take
it. -/
def chWrite (depth draw : Nat) (ch : Channel) (v : Word) : ChReg → Channel
  | .cmd => pushCmd depth ch v
  | .firstAmp => if seedPerformed ch draw then { ch with firstAmp := field v 0 16 } else ch
  | _ => ch

/-- A write to a configuration register: the live register takes it (R52), no open pass sees it
(R44), and every waiting START may still latch the old value (R224). -/
def State.writeCfg (s : State) (r : CfgReg) (v : Word) : State :=
  let old := cfgRead s.live r
  { s with live := cfgWrite s.live v r, ch0 := s.ch0.noteWrite r old, ch1 := s.ch1.noteWrite r old }

/-- A write of `v` to a register (R65). A write to `CH_FIRST_AMP` takes one draw number, whether it
needs it or not. -/
def regWrite (s : State) (v : Word) : Reg → State
  | .ctrl => if field v 0 1 = 1 then s.resetBlock else s
  | .cfg r => s.writeCfg r v
  | .chan c .firstAmp =>
    { s.setCh c (chWrite s.params.cmdqDepth.toNat s.draws (s.ch c) v .firstAmp) with
      draws := s.draws + 1 }
  | .chan c r => s.setCh c (chWrite s.params.cmdqDepth.toNat s.draws (s.ch c) v r)
  | .id => s
  | .hwcfg => s
  | .reserved => s

/-- The offset of an address in the window, or why the access has none (R20, R61, R62, I3). -/
def offsetOfAccess (s : State) (width : Width) (addr : Nat) : Except Refusal Nat :=
  if addr < s.params.blockBase ∨ s.params.blockBase + 0x200 ≤ addr then .error .outsideWindow
  else if width ≠ .word then .error .narrowAccess
  else if (addr - s.params.blockBase) % 4 ≠ 0 then .error .misalignedAccess
  else .ok (addr - s.params.blockBase)

/-- `BusRead` at an offset: the value and the state after (R37, R60, R64, R66). -/
def busRead (s : State) (off : Nat) : Word × State :=
  let r := regAt s.params.numChannels off
  (regRead s r, regAfterRead s r)

/-- `BusWrite` at an offset (R60, R65, R66). -/
def busWrite (s : State) (off : Nat) (v : Word) : State :=
  regWrite s v (regAt s.params.numChannels off)

/-- One thing the host does, whole (R66, R69, R215). A word read is appended to the host's log. -/
def hostEvent (s : State) : HostEvent → Host.Outcome State Fault Refusal
  | .read width addr =>
    match offsetOfAccess s width addr with
    | .ok off =>
      .next { (busRead s off).2 with readLog := s.readLog ++ [(busRead s off).1] }
    | .error why => .refused why
  | .write width addr v =>
    match offsetOfAccess s width addr with
    | .ok off => .next (busWrite s off v)
    | .error why => .refused why
  | .hardReset => .next s.resetBlock

/-- The host's step: the next thing it has to do, if any (R69). -/
def hostStep (s : State) : Host.Outcome State Fault Refusal :=
  match s.host with
  | [] => .next s
  | e :: rest => hostEvent { s with host := rest } e

end Sys2Proof.Machine
end

