-- ==== Sys2Proof/Machine/PassControl.lean ====
section
/-! DEFINITION. NOP, START, END, ABORT (40_pass_control.md R100 to R114), and an illegal word
(30_encoding.md R84, R85). -/

namespace Sys2Proof.Machine

/-- The state a START of this mode opens (R102). -/
def openState : PassMode → ChState
  | .enc => .encode
  | .dec => .decode

/-- START on a channel, the live configuration `c` already read (R102 to R104). -/
def startPass (mode : PassMode) (c : PassConfig) (ch : Channel) : Verdict :=
  if ch.state ≠ .idle then .raise .state
  else if cfgValid c = false then .raise .config
  else if mode = .dec ∧ inBounds c ch.firstAmp = false then .raise .config
  else .done { ch.initPass c with state := openState mode, done := false }

/-- The flush at the end of an encode pass (R168): `n` literal center symbols, no relax. -/
def flush (ch : Channel) : Channel := { ch.emitCenters ch.run.toNat with run := 0 }

/-- END on a channel (R105, R106). -/
def endPass (ch : Channel) : Verdict :=
  match ch.state with
  | .encode => .done { flush ch with state := .idle, done := true }
  | .decode => .done { ch with state := .idle, done := true }
  | .idle => .raise .state
  | .fault => .raise .state

/-- NOP (R101): no effect in any state; its operand is a hint without a meaning (I14). -/
def execNop (_hint : BitVec 28) (s : State) : Host.Outcome State Fault Refusal := .next s

/-- START (R102). -/
def execStart (mode : PassMode) (s : State) : Host.Outcome State Fault Refusal :=
  onActive s.tookLatch (startPass mode s.latched)

/-- END (R105, R106). -/
def execEnd (s : State) : Host.Outcome State Fault Refusal := onActive s endPass

/-- ABORT (R107): in every state, FAULT among them; its operand is ignored. -/
def execAbort (_ignored : BitVec 28) (s : State) : Host.Outcome State Fault Refusal :=
  .next (s.setCh s.active (s.ch s.active).abortPass)

/-- A word that is no command: `Fault(OPCODE)` outside FAULT, discarded in it (R84, R85). -/
def execIllegal (s : State) : Host.Outcome State Fault Refusal :=
  onActive s fun _ => .raise .opcode

end Sys2Proof.Machine
end

