-- ==== Sys2Proof/Machine/Quantizer.lean ====
section
/-! DEFINITION. The predictor datapath, written once for both directions, and QENC
(41_quantizer.md R115 to R144). -/

namespace Sys2Proof.Machine

/-- A direction (R120). -/
inductive Dir where
  | up
  | down
  deriving DecidableEq, Repr

/-- `+1` or `-1`. -/
def Dir.sign : Dir → Int
  | .up => 1
  | .down => -1

/-- `predict(seed)` (R118, R119). -/
def predict (ch : Channel) (seed : Int) : Int :=
  if ch.idx = 0 then seed
  else if ch.idx = 1 then ch.r1.toInt
  else
    match ch.cfg.pmode with
    | .zeroOrderHold => ch.r1.toInt
    | .linear =>
      clampTo (minOf ch.cfg) (maxOf ch.cfg)
        (ch.r1.toInt + floorDiv (ch.r1.toInt - ch.r2.toInt) 2)

/-- `dist(dir)` in shifted coordinates (R121). -/
def distOf (c : PassConfig) (hop0u : Int) : Dir → Nat
  | .up => (rangeOf c - hop0u).toNat
  | .down => hop0u.toNat

/-- `OFFSET_REF(k, d)` for `k >= 2`, by the integer evaluation of R123: `a / b` is the ratio's base,
`M / 65536` its cap, `p / q` the exponent. -/
def offsetPower (c : PassConfig) (step : Half) (d k : Nat) : Nat :=
  let a := c.rangeFactor.toNat * d
  let b := 65536 * step.toNat
  let m := c.maxRatio.toNat
  let p := c.expNum.toNat
  let q := c.expDen.toNat
  if m ^ p * b ^ q ≤ a ^ q * 65536 ^ p then step.toNat * m ^ (k - 1) / 65536 ^ (k - 1)
  else iroot (step.toNat ^ p * a ^ (q * (k - 1)) / b ^ (q * (k - 1))) p

/-- `OFFSET_FN(k, d)` (R122, R124): 0 at the center, `STEP` at the first level, and further out the
reference or, for another instantiation, a free value (I1, log entry 5). -/
def offsetOf (p : Params) (c : PassConfig) (step : Half) (d : Nat) : Nat → Nat
  | 0 => 0
  | 1 => step.toNat
  | k + 2 =>
    match p.offsetFn with
    | .reference => offsetPower c step d (k + 2)
    | .implementation => Config.offsetFn c step d (k + 2)

/-- `clampC(v)` (R125, R126). -/
def clampC (c : PassConfig) (hop0u v : Int) : Int :=
  if rangeOf c < 2 then hop0u else clampTo 1 (rangeOf c - 1) v

/-- `cand(L)` in shifted coordinates (R125 to R127, direction of R147). -/
def cand (p : Params) (ch : Channel) (hop0u level : Int) : Int :=
  if level = 0 then hop0u
  else if 0 < level then
    clampC ch.cfg hop0u
      (hop0u + offsetOf p ch.cfg ch.stepSize (distOf ch.cfg hop0u .up) level.natAbs)
  else
    clampC ch.cfg hop0u
      (hop0u - offsetOf p ch.cfg ch.stepSize (distOf ch.cfg hop0u .down) level.natAbs)

/-- Whether a level's error improves on the best so far (R128 to R130). -/
def improves (tie : Tie) (outermost : Bool) (err best : Nat) : Bool :=
  decide (err < best) || (decide (tie = .outer) && outermost && decide (err = best))

/-- The outward scan (R128): `left` levels are still to visit, `k` is the next one, `best` the level
kept so far with error `bestErr`. -/
def scanLevels (tie : Tie) (err : Nat → Nat) : (left k best bestErr : Nat) → Nat
  | 0, _, best, _ => best
  | left + 1, k, best, bestErr =>
    if improves tie (left == 0) (err k) bestErr then scanLevels tie err left (k + 1) k (err k)
    else best

/-- The direction of the scan (R120). -/
def dirOf (o hop0 : Int) : Dir := if hop0 ≤ o then .up else .down

/-- `select(o)` (R128 to R130): the signed level. -/
def selectLevel (p : Params) (ch : Channel) (o hop0 : Int) : Int :=
  let ou := o - minOf ch.cfg
  let hop0u := hop0 - minOf ch.cfg
  let dir := dirOf o hop0
  let err := fun k : Nat => (ou - cand p ch hop0u (dir.sign * k)).natAbs
  dir.sign * scanLevels (tieOf p.outerTie (nlOf ch.cfg)) err (kOf ch.cfg) 1 0 (err 0)

/-- `candS(L)` as a sample (R125, R131). -/
def reconOf (p : Params) (ch : Channel) (hop0 level : Int) : Half :=
  toHalf (cand p ch (hop0 - minOf ch.cfg) level + minOf ch.cfg)

/-- `update(L)` (R132, R133). The subtraction stops at 0, which the floor at `STEP_MIN` hides, so the
result is that of unbounded integers. -/
def Channel.updateStep (ch : Channel) (level : Int) : Channel :=
  let small := isSmall ch.cfg level
  { ch with
    stepSize :=
      if small && ch.lws then
        BitVec.ofNat 16 (max (ch.stepSize.toNat - ch.cfg.stepDec.toNat) ch.cfg.stepMin.toNat)
      else ch.cfg.stepMax
    lws := small }

/-- `commit(recon)` (R134). -/
def Channel.commit (ch : Channel) (recon : Half) : Channel :=
  { ch with r2 := ch.r1, r1 := recon, idx := ch.idx + 1 }

/-- The state change that both directions make for a level (R132, R134): "one algorithm specified
once and invoked from two call sites" (R2). -/
def Channel.advance (ch : Channel) (p : Params) (hop0 level : Int) : Channel :=
  (ch.updateStep level).commit (reconOf p ch hop0 level)

/-- The seed is recorded by the first quantizer step of a pass (R137). -/
def Channel.recordSeed (ch : Channel) (o : Half) : Channel :=
  { ch with firstAmp := if ch.idx = 0 then o else ch.firstAmp }

/-- The hop index of a signed level, `h = K + L` (R86). -/
def hopOfLevel (c : PassConfig) (level : Int) : Nibble := BitVec.ofInt 4 (kOf c + level)

/-- The signed level of a hop index, `L = h - K` (R86). -/
def levelOfHop (c : PassConfig) (h : Nibble) : Int := (h.toNat : Int) - kOf c

/-- The level that the quantizer gives a sample (R135, first half). -/
def quantLevel (p : Params) (ch : Channel) (o : Half) : Int :=
  selectLevel p ch o.toInt (predict ch o.toInt)

/-- The hop index and the reconstructed sample of `QSTEP(o)` (R131, R135). -/
def quantOut (p : Params) (ch : Channel) (o : Half) : Nibble × Half :=
  (hopOfLevel ch.cfg (quantLevel p ch o), reconOf p ch (predict ch o.toInt) (quantLevel p ch o))

/-- The state after `QSTEP(o)` (R135). -/
def quantStep (p : Params) (ch : Channel) (o : Half) : Channel :=
  (ch.recordSeed o).advance p (predict ch o.toInt) (quantLevel p ch o)

/-- QENC on a channel (R136). -/
def qencOn (p : Params) (o : Half) (ch : Channel) : Verdict :=
  if ch.state ≠ .encode then .raise .state
  else if inBounds ch.cfg o = false then .raise .sample
  else if overCount ch 1 then .raise .count
  else .done ((quantStep p ch o).emit (qrecWord (quantOut p ch o).1 (quantOut p ch o).2))

/-- QENC (R136). -/
def execQenc (sample : Half) (s : State) : Host.Outcome State Fault Refusal :=
  onActive s (qencOn s.params sample)

end Sys2Proof.Machine
end

