-- ==== Sys2Proof/Machine/Reconstructor.lean ====
section
/-! DEFINITION. The reconstructor step and QDEC (42_reconstructor.md R145 to R154). -/

namespace Sys2Proof.Machine

/-- The prediction of the reconstructor: its seed is `FIRST_AMP` (R146, R148). -/
def reconHop0 (ch : Channel) : Int := predict ch ch.firstAmp.toInt

/-- The sample of `RSTEP(h)` (R146). -/
def reconSample (p : Params) (ch : Channel) (h : Nibble) : Half :=
  reconOf p ch (reconHop0 ch) (levelOfHop ch.cfg h)

/-- The state after `RSTEP(h)` (R146). -/
def reconStep (p : Params) (ch : Channel) (h : Nibble) : Channel :=
  ch.advance p (reconHop0 ch) (levelOfHop ch.cfg h)

/-- `RSTEP(h)` and its DREC word (R149, R182). -/
def reconEmit (p : Params) (ch : Channel) (h : Nibble) : Channel :=
  (reconStep p ch h).emit (drecWord h (reconSample p ch h))

/-- QDEC on a channel (R149). -/
def qdecOn (p : Params) (h : Nibble) (ch : Channel) : Verdict :=
  if ch.state ≠ .decode then .raise .state
  else if hopOutOfRange ch.cfg h then .raise .hop
  else if overCount ch 1 then .raise .count
  else .done (reconEmit p ch h)

/-- QDEC (R149). -/
def execQdec (hop : Nibble) (s : State) : Host.Outcome State Fault Refusal :=
  onActive s (qdecOn s.params hop)

end Sys2Proof.Machine
end

