-- ==== Sys2Proof/Machine/SymbolCodec.lean ====
section
/-! DEFINITION. The adaptive run-length symbol codec in both directions, SENC and SDEC
(43_symbol_codec.md R155 to R179). -/

namespace Sys2Proof.Machine

/-- The grow rule `X <- X + 2` (R160). -/
def growX (x : Word) : Word := x + 2

/-- The relax rule `X <- floorDiv(X + 9, 2)` (R161). -/
def relaxX (x : Word) : Word := BitVec.ofNat 32 ((x.toNat + 9) / 2)

/-- The grow rule would make `X` reach `2^32`, which no pass of the spec does (R177, I9). -/
def growBeyondSpec (ch : Channel) : Bool := decide (2 ^ 32 ≤ ch.xlen.toNat + 2)

/-- A center symbol completes a run: `n + 1 = X` (R164). -/
def completesRun (ch : Channel) : Bool := decide (ch.run.toNat + 1 = ch.xlen.toNat)

/-- The pending run, if any, is emitted as literal center symbols, with the relax rule (R163,
R165). -/
def breakRun (ch : Channel) : Channel :=
  if ch.run = 0 then ch
  else { ch.emitCenters ch.run.toNat with xlen := relaxX ch.xlen, run := 0 }

/-- `SYMENC(h)` (R164 to R166), the grow rule not beyond the spec. -/
def symEncStep (ch : Channel) (h : Nibble) : Channel :=
  let y := rankOf ch.cfg h
  if y = 0 then
    if completesRun ch then
      { ch.emitSym metaSym with xlen := growX ch.xlen, run := 0 }
    else { ch with run := ch.run + 1 }
  else (breakRun ch).emitSym y

/-- `SYMENC(h)` collapses a run and the threshold would leave the spec (R177, I9). -/
def symEncBeyond (ch : Channel) (h : Nibble) : Bool :=
  decide (rankOf ch.cfg h = 0) && completesRun ch && growBeyondSpec ch

/-- `SYMENC(h)` as the end of a command (R166, R177). -/
def symEnc (ch : Channel) (h : Nibble) : Verdict :=
  if symEncBeyond ch h then .refuse .thresholdBeyondSpec else .done (symEncStep ch h)

/-- SENC on a channel (R167). -/
def sencOn (h : Nibble) (ch : Channel) : Verdict :=
  if ch.state ≠ .encode then .raise .state
  else if hopOutOfRange ch.cfg h then .raise .hop
  else symEnc ch h

/-- The checks of `SYMDEC(y)`: SYMBOL (R176), then RUN (R172). -/
def symDecCheck (ch : Channel) (y : Byte) : Option ErrCode :=
  if y = metaSym then if ch.run ≠ 0 then some .run else none
  else if nlOf ch.cfg ≤ y.toNat then some .symbol
  else if y = 0 then if ch.xlen.toNat ≤ ch.run.toNat + 1 then some .run else none
  else none

/-- How many hops `SYMDEC(y)` returns (R183). -/
def symHopCount (ch : Channel) (y : Byte) : Nat := if y = metaSym then ch.xlen.toNat else 1

/-- The hops `SYMDEC(y)` returns (R171, R178): `X` null hops at the threshold in force, or one. -/
def symHops (ch : Channel) (y : Byte) : List Nibble :=
  if y = metaSym then List.replicate ch.xlen.toNat (nullHop ch.cfg)
  else if y = 0 then [nullHop ch.cfg]
  else [hopOf ch.cfg y]

/-- The writes of `SYMDEC(y)` once its checks have passed (R171). -/
def symDecStep (ch : Channel) (y : Byte) : Channel :=
  let counted := { ch with symCount := ch.symCount + 1 }
  if y = metaSym then { counted with xlen := growX ch.xlen }
  else if y = 0 then { counted with run := ch.run + 1 }
  else if ch.run = 0 then counted
  else { counted with xlen := relaxX ch.xlen, run := 0 }

/-- SDEC on a channel (R173). -/
def sdecOn (y : Byte) (ch : Channel) : Verdict :=
  if ch.state ≠ .decode then .raise .state
  else
    match symDecCheck ch y with
    | some code => .raise code
    | none =>
      if y = metaSym ∧ growBeyondSpec ch then .refuse .thresholdBeyondSpec
      else .done ((symDecStep ch y).emitAll ((symHops ch y).map hopWord))

/-- SENC (R167). -/
def execSenc (hop : Nibble) (s : State) : Host.Outcome State Fault Refusal :=
  onActive s (sencOn hop)

/-- SDEC (R173). -/
def execSdec (sym : Byte) (s : State) : Host.Outcome State Fault Refusal :=
  onActive s (sdecOn sym)

end Sys2Proof.Machine
end

