-- ==== Sys2Proof/Machine/Pipeline.lean ====
section
/-! DEFINITION. ENC and DEC, the two flows in one command (44_pipeline.md R180 to R189). -/

namespace Sys2Proof.Machine

/-- ENC on a channel (R180, R181): the QREC word, then the symbols of the hop. -/
def encOn (p : Params) (o : Half) (ch : Channel) : Verdict :=
  if ch.state ≠ .encode then .raise .state
  else if inBounds ch.cfg o = false then .raise .sample
  else if overCount ch 1 then .raise .count
  else
    symEnc ((quantStep p ch o).emit (qrecWord (quantOut p ch o).1 (quantOut p ch o).2))
      (quantOut p ch o).1

/-- One `RSTEP` and one DREC word for each hop, in order (R182, R184). -/
def reconAll (p : Params) (ch : Channel) (hops : List Nibble) : Channel :=
  hops.foldl (reconEmit p) ch

/-- DEC on a channel (R182, R183). The count check makes the grow rule stay far below `2^32`, because
`SAMPLE_COUNT < 2^31`. -/
def decOn (p : Params) (y : Byte) (ch : Channel) : Verdict :=
  if ch.state ≠ .decode then .raise .state
  else
    match symDecCheck ch y with
    | some code => .raise code
    | none =>
      if overCount ch (symHopCount ch y) then .raise .count
      else .done (reconAll p (symDecStep ch y) (symHops ch y))

/-- ENC (R180). -/
def execEnc (sample : Half) (s : State) : Host.Outcome State Fault Refusal :=
  onActive s (encOn s.params sample)

/-- DEC (R182). -/
def execDec (sym : Byte) (s : State) : Host.Outcome State Fault Refusal :=
  onActive s (decOn s.params sym)

end Sys2Proof.Machine
end

