-- ==== Sys2Proof/Machine/Dispatch.lean ====
section
/-! DEFINITION. Each command's meaning (30_encoding.md R83). -/

namespace Sys2Proof.Machine

def exec (i : Instr) (s : State) : Host.Outcome State Fault Refusal :=
  match i with
  | .nop hint => Sys2Proof.Machine.execNop hint s
  | .start mode => Sys2Proof.Machine.execStart mode s
  | .end_ => Sys2Proof.Machine.execEnd s
  | .abort ignored => Sys2Proof.Machine.execAbort ignored s
  | .enc sample => Sys2Proof.Machine.execEnc sample s
  | .qenc sample => Sys2Proof.Machine.execQenc sample s
  | .senc hop => Sys2Proof.Machine.execSenc hop s
  | .dec sym => Sys2Proof.Machine.execDec sym s
  | .qdec hop => Sys2Proof.Machine.execQdec hop s
  | .sdec sym => Sys2Proof.Machine.execSdec sym s

end Sys2Proof.Machine
end

