-- ==== Sys2Proof/Machine/Engine.lean ====
section
/-! DEFINITION. The channel engines and the choice of who moves (20_memory.md R70 to R73,
70_reset_and_hazards.md R228, R233). -/

namespace Sys2Proof.Machine

/-- The state in which channel `c` executes the word it has just taken from its queue (R47, R70). -/
def State.taken (s : State) (c : Chan) (q : Queued) (rest : List Queued) : State :=
  { s.setCh c { s.ch c with cmdQ := rest } with active := c, raced := q.raced }

/-- Channel `c` takes `q` from its queue and executes it whole (R70, R84, R85). -/
def runWord (s : State) (c : Chan) (q : Queued) (rest : List Queued) :
    Host.Outcome State Fault Refusal :=
  match decode q.word with
  | .ok i => exec i (s.taken c q rest)
  | .error _ => execIllegal (s.taken c q rest)

/-- The output of a command does not fit in the output queue (R228): it would leave more than
`OUTQ_DEPTH` words where it found fewer than it leaves. -/
def overfull (s t : State) (c : Chan) : Bool :=
  decide ((s.ch c).outQ.length < (t.ch c).outQ.length)
    && decide (s.params.outqDepth.toNat < (t.ch c).outQ.length)

/-- The head command of channel `c` is held by a full output queue (R228, I6), where the instance
models the hold. -/
def heldBack (s : State) (c : Chan) : Bool :=
  s.params.holdOutput &&
    match (s.ch c).cmdQ with
    | [] => false
    | q :: rest =>
      match runWord s c q rest with
      | .next t => overfull s t c
      | .fault _ => false
      | .refused _ => false

/-- Channel `c` has a command and may begin it (R210, R228, R233). -/
def canRun (s : State) (c : Chan) : Bool :=
  s.present c && busyOf (s.ch c) && !heldBack s c

/-- The step of channel `c`'s engine: its oldest command, or nothing (R70, R210, R228). -/
def engineStep (s : State) (c : Chan) : Host.Outcome State Fault Refusal :=
  match (s.ch c).cmdQ with
  | [] => .next s
  | q :: rest => if canRun s c then runWord s c q rest else .next s

/-- The step of an agent. -/
def agentStep (s : State) : Agent → Host.Outcome State Fault Refusal
  | .host => hostStep s
  | .engine c => engineStep s c

/-- The agents that have something to do (R69, R73, R233). -/
def movers (s : State) : List Agent :=
  (if s.host.isEmpty then [] else [.host])
    ++ (if canRun s .ch0 then [.engine .ch0] else [])
    ++ (if canRun s .ch1 then [.engine .ch1] else [])

/-- A command waits on a full output queue (R228, I6). -/
def stalled (s : State) : Bool :=
  (s.present .ch0 && heldBack s .ch0) || (s.present .ch1 && heldBack s .ch1)

/-- A free choice among agents, by draw number (R73, I4, log entry 2). -/
def chooseAgent (first : Agent) (others : List Agent) (draw : Nat) : Agent :=
  (first :: others).getD (Config.freeTurn draw % (others.length + 1)) first

/-- No schedule is left: the one agent that can move moves, a free choice decides between several,
and a block that nobody can move stands still (R217) or hangs (R228, I6). -/
def freeStep (s : State) : Host.Outcome State Fault Refusal :=
  match movers s with
  | [] => if stalled s then .fault .outputStall else .next s
  | [a] => agentStep s a
  | a :: b :: others =>
    agentStep { s with draws := s.draws + 1 } (chooseAgent a (b :: others) s.draws)

/-- One step of the machine: one agent's atomic step (R3, R66, R70, D30). -/
def machineStep (s : State) : Host.Outcome State Fault Refusal :=
  match s.schedule with
  | a :: rest => agentStep { s with schedule := rest } a
  | [] => freeStep s

/-- `s` with the command word `w` next in channel 0's queue, channel 0's turn next, and no hold on
its output (log entry 16). -/
def State.withWord (s : State) (w : Word) : State :=
  { s with ch0 := { s.ch0 with cmdQ := ⟨w, []⟩ :: s.ch0.cmdQ },
           schedule := .engine .ch0 :: s.schedule,
           params := { s.params with holdOutput := false } }

end Sys2Proof.Machine
end

