-- ==== Sys2Proof/Machine/Step.lean ====
section
/-! DEFINITION. The step of the machine and the host's way to place one command. -/

namespace Sys2Proof.Machine

/-- One step (R3, R70, R73). -/
def step (s : State) : Host.Outcome State Fault Refusal := machineStep s

/-- `s` with one table word placed as the next command to execute (log entry 16). -/
def State.withFetchWord (s : State) (nbits w : Nat) : State :=
  s.withWord (BitVec.ofNat 32 (w % 2 ^ nbits))

end Sys2Proof.Machine
end

