-- ==== Sys2Proof/Machine/Observe.lean ====
section
/-! DEFINITION. What is observed of the block: the header quantities (10_state.md R59), the symbol
stream (30_encoding.md R98, R99), a clean channel and the end of a run (70_reset_and_hazards.md
R235, R236). Nothing here changes the state. -/

namespace Sys2Proof.Machine

/-- `KIND` of an output word (R89). -/
def kindOf (w : Word) : BitVec 3 := field w 28 3

/-- The `byteStream` of a sequence of output words: the `DATA[7:0]` of its SYM words, in order
(R98). -/
def symBytes (ws : List Word) : List Byte :=
  (ws.filter fun w => kindOf w == OutKind.sym.code).map fun w => field w 0 8

/-- The five integers of the mono container header, in its order (R59, C7): symbol count, first
amplitude, sample count, maximum and minimum sample. -/
def monoHeader (s : State) (c : Chan) : List Int :=
  [(s.ch c).symCount.toNat, (s.ch c).firstAmp.toInt, s.live.sampleCount.toNat,
    maxOf s.live, minOf s.live]

/-- The seven integers of the stereo container header, in its order (R59, C7). -/
def stereoHeader (s : State) : List Int :=
  [s.ch0.symCount.toNat, s.ch1.symCount.toNat, s.ch0.firstAmp.toInt, s.ch1.firstAmp.toInt,
    s.live.sampleCount.toNat, maxOf s.live, minOf s.live]

/-- A channel is clean (R235). -/
def isClean (ch : Channel) : Bool :=
  decide (ch.state = .idle) && decide (ch.err = .none) && !busyOf ch && ch.outQ.isEmpty

/-- A channel's part of the end of a run (R236): not `BUSY`, and in IDLE or FAULT. -/
def atRest (ch : Channel) : Bool :=
  !busyOf ch && decide (ch.state = .idle ∨ ch.state = .fault)

/-- The channels of the instance, in order (R8, R50). -/
def State.channels (s : State) : List Chan := [Chan.ch0, .ch1].filter s.present

/-- A run is over (R236): every channel of the instance is at rest. -/
def runOver (s : State) : Bool := s.channels.all fun c => atRest (s.ch c)

/-- A run that is over has failed: a channel ended in FAULT (R236). -/
def runFailed (s : State) : Bool := s.channels.any fun c => decide ((s.ch c).state = .fault)

/-- The global registers, in address order (R20). -/
def globalRegs : List Reg :=
  [.id, .hwcfg, .ctrl]
    ++ [CfgReg.mode, .exp, .rfact, .maxr, .step, .stepDec, .bounds, .count, .prioLo, .prioHi].map .cfg

/-- The registers of a channel, in address order (R20). -/
def channelRegs (c : Chan) : List Reg :=
  [ChReg.cmd, .out, .status, .firstAmp, .symCount, .index, .step, .recon, .xlen, .run].map (.chan c)

/-- Every register that the instance has, in address order (R20): one without channel 1 has none of
channel 1's (R50). -/
def allRegs (s : State) : List Reg := globalRegs ++ s.channels.flatMap channelRegs

/-- What is observed of a run (R236): the words that each channel of the instance emitted, in order,
and the final value of every register. -/
structure Observation where
  emitted : List (List Word)
  registers : List Word
  deriving DecidableEq, Repr

/-- The observation of a run that ends in `s` (R236). -/
def observe (s : State) : Observation :=
  ⟨s.channels.map fun c => (s.ch c).emitted, (allRegs s).map (regRead s)⟩

/-- A sequence of commands executed one after the other on the active channel (R70), stopping where
one has no next state. -/
def runCommands : List Instr → State → Host.Outcome State Fault Refusal
  | [], s => .next s
  | i :: rest, s =>
    match exec i s with
    | .next t => runCommands rest t
    | .fault r => .fault r
    | .refused r => .refused r

end Sys2Proof.Machine
end

