-- ==== Sys2Proof/Safety.lean ====
section
/-! DEFINITION. The invariants of the machine, in the terms that statements use: what holds of every
state that a run from reset reaches, and what an open pass guarantees. -/

namespace Sys2Proof.Machine

/-- An output word the block can produce: `VALID` 1 and a kind of R90 (R89, I16). -/
def producedWord (w : Word) : Bool :=
  w.msb && decide (1 ≤ (kindOf w).toNat) && decide ((kindOf w).toNat ≤ 4)

/-- What holds of a channel while a pass is open: a valid latched configuration (R102), the step
size within its bounds (R141), the sample limit (R109), and the seed and the two last samples within
the sample bounds from the index on at which they are read (R118, R139). -/
structure PassInv (ch : Channel) : Prop where
  valid : cfgValid ch.cfg = true
  stepLow : ch.cfg.stepMin.toNat ≤ ch.stepSize.toNat
  stepHigh : ch.stepSize.toNat ≤ ch.cfg.stepMax.toNat
  count : ch.idx.toNat ≤ ch.cfg.sampleCount.toNat
  seed : ch.state = .decode ∨ ch.idx ≠ 0 → inBounds ch.cfg ch.firstAmp = true
  last : ch.idx ≠ 0 → inBounds ch.cfg ch.r1 = true
  second : 2 ≤ ch.idx.toNat → inBounds ch.cfg ch.r2 = true

/-- What holds of a channel at every point: a code exactly in FAULT (R212), `X >= 8` and `n < X`
(R46, R162, R166), `DONE` only outside a pass (R110, R193), the command queue within its depth
(R47), only words of R90 in the output queue, and the pass's own invariant. -/
structure ChanInv (depth : Nat) (ch : Channel) : Prop where
  errFault : ch.state = .fault ↔ ch.err ≠ .none
  threshold : 8 ≤ ch.xlen.toNat
  runBelow : ch.run.toNat < ch.xlen.toNat
  doneClosed : ch.done = true → ch.state = .idle ∨ ch.state = .fault
  queue : ch.cmdQ.length ≤ depth
  outputs : ∀ w ∈ ch.outQ, producedWord w = true
  pass : ch.state = .encode ∨ ch.state = .decode → PassInv ch

/-- The invariant of the machine: both channels', a channel that the instance does not have keeps its
reset state (R50), and the parameters are legal (R8). -/
structure MachineInv (s : State) : Prop where
  inv0 : ChanInv s.params.cmdqDepth.toNat s.ch0
  inv1 : ChanInv s.params.cmdqDepth.toNat s.ch1
  absent : s.params.numChannels = .one → s.ch1 = Channel.reset
  legal : s.params.legal = true

/-- The channel whose engine takes the step. -/
def State.act (s : State) : Channel := s.ch s.active

/-- A channel has taken the fault of a code (R193). -/
def raised (code : ErrCode) (after : Channel) : Prop := after.state = .fault ∧ after.err = code

/-- The table of R100, a row of a command that runs in no state but `pass` and may fault there. -/
def dataRow (pass : ChState) (before after : Channel) : Prop :=
  if before.state = pass then after.state = pass ∨ after.state = .fault else raised .state after

/-- The table of R100, outside FAULT: what a command may do to the state of the channel that executes
it. -/
def commandRow (i : Instr) (before after : Channel) : Prop :=
  match i with
  | .nop _ => after = before
  | .start mode =>
    if before.state = .idle then after.state = openState mode ∨ raised .config after
    else raised .state after
  | .end_ =>
    if before.state = .idle then raised .state after
    else after.state = .idle ∧
      (before.state = .encode →
        after.outQ = before.outQ ++ List.replicate before.run.toNat (symWord 0))
  | .abort _ => after.state = .idle
  | .enc _ => dataRow .encode before after
  | .qenc _ => dataRow .encode before after
  | .senc _ => dataRow .encode before after
  | .dec _ => dataRow .decode before after
  | .qdec _ => dataRow .decode before after
  | .sdec _ => dataRow .decode before after

/-- The table of R100, its FAULT column and its row of illegal words included. A word that is
discarded changes nothing. -/
def stateTable (word : Except Illegal Instr) (before after : Channel) : Prop :=
  match word with
  | .ok (.abort _) => after.state = .idle
  | .ok i => if before.state = .fault then after = before else commandRow i before after
  | .error _ => if before.state = .fault then after = before else raised .opcode after

/-- The predictor state of two channels is equal (42_reconstructor.md R154): `i`, `r1`, `r2`,
`STEP`, `LWS`. -/
def samePredictor (a b : Channel) : Prop :=
  a.idx = b.idx ∧ a.r1 = b.r1 ∧ a.r2 = b.r2 ∧ a.stepSize = b.stepSize ∧ a.lws = b.lws

/-- The run state of two channels is equal: `X`, `n`. -/
def sameRun (a b : Channel) : Prop := a.xlen = b.xlen ∧ a.run = b.run

end Sys2Proof.Machine
end

