-- ==== Sys2Proof/Certificates/Slice0/Obligations.lean ====
section
/-! DEFINITION. The statements for the provers. `act` is the channel that executes the command; a
record update of it says what is written and that nothing else of the channel is. -/

open Sys2Proof Sys2Proof.Machine

/-! ### Encodings (30_encoding.md) -/

/-- Decode undoes encode, for every command with every operand (R81 to R83). -/
def Obligations.DecodeOfEncode : Prop := ∀ i : Instr, decode (encode i) = .ok i

/-- Every legal word is the encoding of its command: no bit is dropped (R81, R85). -/
def Obligations.EncodeOfDecode : Prop :=
  ∀ (w : Word) (i : Instr), decode w = .ok i → encode i = w

/-- R83, the opcode map row by row: a word is the command of a row when `w & mask = match`, and has
the mnemonic of that row. -/
def Obligations.WordIsItsRow : Prop :=
  ∀ w : Word,
    (w &&& 0xF0000000 = 0x00000000 ↔ ∃ hint, decode w = .ok (.nop hint)) ∧
    (w &&& 0xFFFFFFFE = 0x10000000 ↔ ∃ mode, decode w = .ok (.start mode)) ∧
    (w &&& 0xFFFFFFFF = 0x20000000 ↔ decode w = .ok .end_) ∧
    (w &&& 0xF0000000 = 0x30000000 ↔ ∃ ignored, decode w = .ok (.abort ignored)) ∧
    (w &&& 0xFFFF0000 = 0x40000000 ↔ ∃ sample, decode w = .ok (.enc sample)) ∧
    (w &&& 0xFFFF0000 = 0x50000000 ↔ ∃ sample, decode w = .ok (.qenc sample)) ∧
    (w &&& 0xFFFFFFF0 = 0x60000000 ↔ ∃ hop, decode w = .ok (.senc hop)) ∧
    (w &&& 0xFFFFFF00 = 0x70000000 ↔ ∃ sym, decode w = .ok (.dec sym)) ∧
    (w &&& 0xFFFFFFF0 = 0x80000000 ↔ ∃ hop, decode w = .ok (.qdec hop)) ∧
    (w &&& 0xFFFFFF00 = 0x90000000 ↔ ∃ sym, decode w = .ok (.sdec sym)) ∧
    ∀ r ∈ opcodeMap,
      (w &&& r.mask = r.pattern ↔ ∃ i, decode w = .ok i ∧ i.mnemonic = r.mnemonic)

/-- R84: a word with `OPC` in 0xA to 0xF raises `Fault(OPCODE)` outside FAULT. -/
def Obligations.ReservedOpcodeFaults : Prop :=
  ∀ (s : State) (c : Chan) (q : Queued) (rest : List Queued),
    10 ≤ (field q.word 28 4).toNat → (s.ch c).state ≠ .fault →
    runWord s c q rest =
      .next ((s.taken c q rest).setCh c
        { s.ch c with cmdQ := rest, state := .fault, err := .opcode })

/-- R85: a reserved operand bit set raises `Fault(OPCODE)` outside FAULT, NOP and ABORT ignore their
operand, and every word is exactly one row of R83 or illegal. -/
def Obligations.ReservedBitsFault : Prop :=
  (∀ (s : State) (c : Chan) (q : Queued) (rest : List Queued),
    (field q.word 28 4 = 1 ∧ field q.word 1 27 ≠ 0 ∨
      field q.word 28 4 = 2 ∧ field q.word 0 28 ≠ 0 ∨
      (field q.word 28 4 = 4 ∨ field q.word 28 4 = 5) ∧ field q.word 16 12 ≠ 0 ∨
      (field q.word 28 4 = 6 ∨ field q.word 28 4 = 8) ∧ field q.word 4 24 ≠ 0 ∨
      (field q.word 28 4 = 7 ∨ field q.word 28 4 = 9) ∧ field q.word 8 20 ≠ 0) →
    (s.ch c).state ≠ .fault →
    runWord s c q rest =
      .next ((s.taken c q rest).setCh c
        { s.ch c with cmdQ := rest, state := .fault, err := .opcode })) ∧
  (∀ w : Word, field w 28 4 = 0 → decode w = .ok (.nop (field w 0 28))) ∧
  (∀ w : Word, field w 28 4 = 3 → decode w = .ok (.abort (field w 0 28))) ∧
  (∀ w : Word, (∃ r ∈ opcodeMap, w &&& r.mask = r.pattern ∧
      ∀ r' ∈ opcodeMap, w &&& r'.mask = r'.pattern → r' = r) ∨
    (∃ e, decode w = .error e) ∧ ∀ r ∈ opcodeMap, w &&& r.mask ≠ r.pattern)

/-- R97: the worked encodings, in both directions. -/
def Obligations.WorkedEncodings : Prop :=
  ∀ x ∈ [((0x10000000 : Word), Instr.start .enc), (0x10000001, .start .dec), (0x20000000, .end_),
      (0x30000000, .abort 0), (0x400003E8, .enc (BitVec.ofInt 16 1000)),
      (0x4000EC78, .enc (BitVec.ofInt 16 (-5000))), (0x5000FFFF, .qenc (BitVec.ofInt 16 (-1))),
      (0x60000004, .senc 4), (0x70000058, .dec metaSym), (0x80000007, .qdec 7),
      (0x90000000, .sdec 0)],
    decode x.1 = .ok x.2 ∧ encode x.2 = x.1

/-- R90: the output words of the four kinds. -/
def Obligations.OutputWords : Prop :=
  (∀ (h : Nibble) (recon : Half),
    qrecWord h recon = 0x90000000#32 ||| h.setWidth 32 <<< 16 ||| recon.setWidth 32) ∧
  (∀ y : Byte, symWord y = 0xA0000000#32 ||| y.setWidth 32) ∧
  (∀ (h : Nibble) (recon : Half),
    drecWord h recon = 0xB0000000#32 ||| h.setWidth 32 <<< 16 ||| recon.setWidth 32) ∧
  (∀ h : Nibble, hopWord h = 0xC0000000#32 ||| h.setWidth 32 <<< 16)

/-! ### Pass control (40_pass_control.md) -/

/-- R101: NOP has no effect, in every state and with every hint; the engine only takes its word from
the queue. -/
def Obligations.NopNoEffect : Prop :=
  (∀ (s : State) (hint : BitVec 28), exec (.nop hint) s = .next s) ∧
  (∀ (s : State) (c : Chan) (q : Queued) (rest : List Queued), field q.word 28 4 = 0 →
    runWord s c q rest = .next (s.taken c q rest))

/-- R102, R104: a START that passes its checks latches, initialises the pass and opens it; queues,
`FIRST_AMP` and `ERR_CODE` stay. What it latches and checks is `latched`: the live registers (R77), but
for those that a write raced (R224), which the draws of log entry 8 decide; where none did, `raced` is
empty. -/
def Obligations.StartOpensPass : Prop :=
  ∀ (s : State) (mode : PassMode),
    s.act.state = .idle → cfgValid s.latched = true →
    (mode = .dec → inBounds s.latched s.act.firstAmp = true) →
    exec (.start mode) s =
      .next ({ s with draws := s.draws + s.raced.length }.setCh s.active
        { s.act with
          cfg := s.latched, idx := 0, r1 := 0, r2 := 0, stepSize := s.latched.stepMax,
          lws := false, xlen := 8, run := 0, symCount := 0,
          state := match mode with | .enc => .encode | .dec => .decode
          done := false })

/-- R102, R191, R199: a START outside IDLE raises STATE; in IDLE a configuration that is not valid,
or for decode a seed outside the bounds, raises CONFIG; nothing else is written. The configuration
checked is `latched`: the live registers (R77), but for those that a write raced (R224), which the
draws of log entry 8 decide. -/
def Obligations.StartFaults : Prop :=
  ∀ (s : State) (mode : PassMode),
    let faults := fun code => exec (.start mode) s =
      .next ({ s with draws := s.draws + s.raced.length }.setCh s.active
        { s.act with state := .fault, err := code })
    (s.act.state = .encode ∨ s.act.state = .decode → faults .state) ∧
    (s.act.state = .idle → cfgValid s.latched = false → faults .config) ∧
    (s.act.state = .idle → cfgValid s.latched = true → mode = .dec →
      inBounds s.latched s.act.firstAmp = false → faults .config)

/-- R77, R224: what a START latches. A register that was not written while it waited has its live
value; one that was has its live value or a value it had before such a write (the free choice of log
entry 8). -/
def Obligations.StartLatchDraw : Prop :=
  ∀ (s : State) (r : CfgReg),
    ((∀ old, (r, old) ∉ s.raced) → cfgRead s.latched r = cfgRead s.live r) ∧
    (cfgRead s.latched r = cfgRead s.live r ∨
      ∃ old, (r, old) ∈ s.raced ∧ cfgRead s.latched r = cfgRead (cfgWrite s.live old r) r)

/-- R103, R158: the six conditions of a valid configuration, a valid priority table being a
permutation of the ranks with rank 0 at the center. -/
def Obligations.ConfigValidity : Prop :=
  ∀ c : PassConfig,
    cfgValid c = true ↔
      (nlOf c % 2 = 1 ∧ 3 ≤ nlOf c ∧ nlOf c ≤ 15) ∧
      1 ≤ c.stepMin.toNat ∧ c.stepMin.toNat ≤ c.stepMax.toNat ∧
      (1 ≤ c.expNum.toNat ∧ 1 ≤ c.expDen.toNat) ∧
      c.minSample.toInt ≤ c.maxSample.toInt ∧
      ((∀ h < nlOf c, (prioOf c h).toNat < nlOf c) ∧
        (∀ rank < nlOf c, ∃! h, h < nlOf c ∧ (prioOf c h).toNat = rank) ∧
        prioOf c ((nlOf c - 1) / 2) = 0)

/-- R105, R168: END of an encode pass emits the pending run as literal center symbols, counts them,
closes the pass and leaves the threshold. -/
def Obligations.EndEncodeFlushes : Prop :=
  ∀ s : State, s.act.state = .encode →
    exec .end_ s =
      .next (s.setCh s.active
        { s.act with
          outQ := s.act.outQ ++ List.replicate s.act.run.toNat 0xA0000000
          emitted := s.act.emitted ++ List.replicate s.act.run.toNat 0xA0000000
          symCount := s.act.symCount + s.act.run
          run := 0, state := .idle, done := true })

/-- R106 and R105's check: END of a decode pass closes it and writes nothing else; END in IDLE raises
STATE. -/
def Obligations.EndDecodeAndIdle : Prop :=
  ∀ s : State,
    (s.act.state = .decode →
      exec .end_ s = .next (s.setCh s.active { s.act with state := .idle, done := true })) ∧
    (s.act.state = .idle →
      exec .end_ s = .next (s.setCh s.active { s.act with state := .fault, err := .state }))

/-- R107: ABORT, in every state and with every operand, gives IDLE with no code, clears `DONE` and
empties the output queue, and writes nothing else. -/
def Obligations.AbortInEveryState : Prop :=
  ∀ (s : State) (ignored : BitVec 28),
    exec (.abort ignored) s =
      .next (s.setCh s.active
        { s.act with state := .idle, err := .none, done := false, outQ := [] })

/-- R108: in FAULT every word but an ABORT is removed from the command queue and has no effect. -/
def Obligations.FaultDiscards : Prop :=
  ∀ (s : State) (c : Chan) (q : Queued) (rest : List Queued),
    (s.ch c).state = .fault → field q.word 28 4 ≠ 3 →
    ∃ d, runWord s c q rest = .next { s.taken c q rest with draws := d }

/-- R100: the effect of every word on the state of its channel is the table's. -/
def Obligations.PassStateTable : Prop :=
  ∀ (s t : State) (c : Chan) (q : Queued) (rest : List Queued),
    runWord s c q rest = .next t →
    stateTable (decode q.word) { s.ch c with cmdQ := rest } (t.ch c)

/-! ### Quantizer (41_quantizer.md) -/

/-- R118: the prediction, with the halving of R119 an exact floor. -/
def Obligations.PredictionRule : Prop :=
  ∀ (ch : Channel) (seed : Int),
    (ch.idx = 0 → predict ch seed = seed) ∧
    (ch.idx = 1 → predict ch seed = ch.r1.toInt) ∧
    (2 ≤ ch.idx.toNat → ch.cfg.pmode = .zeroOrderHold → predict ch seed = ch.r1.toInt) ∧
    (2 ≤ ch.idx.toNat → ch.cfg.pmode = .linear →
      predict ch seed =
        min (max (ch.r1.toInt + ⌊((ch.r1.toInt - ch.r2.toInt : Int) : ℚ) / 2⌋)
          ch.cfg.minSample.toInt) ch.cfg.maxSample.toInt)

/-- R124, and R122 by R123: every instantiation gives 0 at the center and `STEP` at the first level,
and the reference gives, further out, the floor of the exact real offset. -/
def Obligations.OffsetFunction : Prop :=
  (∀ (p : Params) (c : PassConfig) (step : Half) (d : Nat),
    offsetOf p c step d 0 = 0 ∧ offsetOf p c step d 1 = step.toNat) ∧
  (∀ (p : Params) (c : PassConfig) (step : Half) (d k : Nat),
    p.offsetFn = .reference → 1 ≤ step.toNat → 1 ≤ c.expNum.toNat → 1 ≤ c.expDen.toNat → 2 ≤ k →
    (offsetOf p c step d k : Int) =
      ⌊(step.toNat : ℝ) *
        (min ((c.maxRatio.toNat : ℝ) / 65536)
          (((c.rangeFactor.toNat : ℝ) / 65536 * d / step.toNat) ^
            (1 / ((c.expNum.toNat : ℝ) / c.expDen.toNat)))) ^ (k - 1)⌋)

/-- R125, R126: the candidate of every level, the center unclamped, every candidate the prediction
when `RANGE < 2`. -/
def Obligations.CandidateRule : Prop :=
  ∀ (p : Params) (ch : Channel) (hop0u level : Int),
    let range := ch.cfg.maxSample.toInt - ch.cfg.minSample.toInt
    let offset := fun d : Int => (offsetOf p ch.cfg ch.stepSize d.toNat level.natAbs : Int)
    (level = 0 → cand p ch hop0u level = hop0u) ∧
    (range < 2 → cand p ch hop0u level = hop0u) ∧
    (2 ≤ range → 0 < level →
      cand p ch hop0u level = min (max (hop0u + offset (range - hop0u)) 1) (range - 1)) ∧
    (2 ≤ range → level < 0 →
      cand p ch hop0u level = min (max (hop0u - offset hop0u) 1) (range - 1))

/-- R128, R129, R130: the selected level lies in the determined direction; up to it every level
improves on the one before, and the next one, if there is one, does not. To improve is to have a
strictly smaller error, or, at the outermost level under OUTER, an error no greater. The default is
INNER for every alphabet size, and the reconstructor does not depend on the tie rule. -/
def Obligations.GreedySelection : Prop :=
  (∀ (p : Params) (ch : Channel) (o hop0 : Int),
    let sign : Int := if hop0 ≤ o then 1 else -1
    let err := fun k : Nat =>
      (o - minOf ch.cfg - cand p ch (hop0 - minOf ch.cfg) (sign * k)).natAbs
    let better := fun k : Nat =>
      if k + 1 = kOf ch.cfg ∧ tieOf p.outerTie (nlOf ch.cfg) = .outer then err (k + 1) ≤ err k
      else err (k + 1) < err k
    ∃ k ≤ kOf ch.cfg, selectLevel p ch o hop0 = sign * k ∧
      (∀ j < k, better j) ∧ (k < kOf ch.cfg → ¬ better k)) ∧
  (∀ nl : Nat, tieOf Params.default.outerTie nl = .inner) ∧
  ∀ (p : Params) (ch : Channel) (h : Nibble) (tie : OuterTie),
    reconStep { p with outerTie := tie } ch h = reconStep p ch h

/-- R132, R134, R137, in QENC (R135, R136): the whole effect of QENC on a sample it accepts. -/
def Obligations.QencResult : Prop :=
  ∀ (s : State) (o : Half),
    s.act.state = .encode → inBounds s.act.cfg o = true →
    s.act.idx.toNat + 1 ≤ s.act.cfg.sampleCount.toNat →
    let hop0 := predict s.act o.toInt
    let level := selectLevel s.params s.act o.toInt hop0
    let recon := toHalf (cand s.params s.act (hop0 - minOf s.act.cfg) level + minOf s.act.cfg)
    let word := 0x90000000#32 ||| (hopOfLevel s.act.cfg level).setWidth 32 <<< 16 ||| recon.setWidth 32
    let small := level.natAbs ≤ s.act.cfg.shrinkBand.toNat
    ∃ t, exec (.qenc o) s = .next t ∧
      t = s.setCh s.active
        { s.act with
          firstAmp := if s.act.idx = 0 then o else s.act.firstAmp
          stepSize :=
            if small ∧ s.act.lws = true then
              BitVec.ofInt 16
                (max ((s.act.stepSize.toNat : Int) - s.act.cfg.stepDec.toNat) s.act.cfg.stepMin.toNat)
            else s.act.cfg.stepMax
          lws := decide small, r2 := s.act.r1, r1 := recon, idx := s.act.idx + 1
          outQ := s.act.outQ ++ [word], emitted := s.act.emitted ++ [word] } ∧
      regRead t (.chan s.active .recon) = recon.setWidth 32 ||| s.act.r1.setWidth 32 <<< 16

/-- R136, R144, R180, R196: QENC and ENC fault STATE outside ENCODE, then SAMPLE, then COUNT, and
write nothing else. -/
def Obligations.SampleCommandFaults : Prop :=
  ∀ (s : State) (o : Half) (i : Instr), i = .qenc o ∨ i = .enc o →
    let faults := fun code =>
      exec i s = .next (s.setCh s.active { s.act with state := .fault, err := code })
    (s.act.state = .idle ∨ s.act.state = .decode → faults .state) ∧
    (s.act.state = .encode →
      (o.toInt < s.act.cfg.minSample.toInt ∨ s.act.cfg.maxSample.toInt < o.toInt) →
      faults .sample) ∧
    (s.act.state = .encode → inBounds s.act.cfg o = true →
      s.act.cfg.sampleCount.toNat < s.act.idx.toNat + 1 → faults .count)

/-- R138, R137: the first sample of a pass gives the null hop and itself, under the tie rule INNER and,
where the first level is not the outermost, under OUTER too (R130). -/
def Obligations.FirstSampleIsNull : Prop :=
  ∀ (s : State) (o : Half),
    s.act.state = .encode → s.act.idx = 0 → inBounds s.act.cfg o = true →
    1 ≤ s.act.cfg.sampleCount.toNat → tieOf s.params.outerTie (nlOf s.act.cfg) = .inner ∨ 2 ≤ kOf s.act.cfg →
    ∃ t, exec (.qenc o) s = .next t ∧ t.act.r1 = o ∧ t.act.firstAmp = o ∧
      t.act.outQ = s.act.outQ ++ [qrecWord (nullHop s.act.cfg) o]

/-- R139: in an open pass every prediction and every reconstructed sample lies in the bounds. -/
def Obligations.ReconstructionInBounds : Prop :=
  ∀ (p : Params) (ch : Channel) (seed : Half) (level : Int),
    PassInv ch → inBounds ch.cfg seed = true →
    minOf ch.cfg ≤ predict ch seed.toInt ∧ predict ch seed.toInt ≤ maxOf ch.cfg ∧
    inBounds ch.cfg (reconOf p ch (predict ch seed.toInt) level) = true

/-- R86, R128: the hop index that the quantizer gives is in range and names its level. -/
def Obligations.QuantizerHopInRange : Prop :=
  ∀ (p : Params) (ch : Channel) (o : Half), 1 ≤ nlOf ch.cfg →
    (quantOut p ch o).1.toNat < nlOf ch.cfg ∧
    levelOfHop ch.cfg (quantOut p ch o).1 = quantLevel p ch o

/-! ### Reconstructor (42_reconstructor.md) -/

/-- R146 to R149: the whole effect of QDEC on a hop it accepts. -/
def Obligations.QdecResult : Prop :=
  ∀ (s : State) (h : Nibble),
    s.act.state = .decode → h.toNat < nlOf s.act.cfg →
    s.act.idx.toNat + 1 ≤ s.act.cfg.sampleCount.toNat →
    let level : Int := h.toNat - ((nlOf s.act.cfg - 1) / 2 : Nat)
    let hop0 := predict s.act s.act.firstAmp.toInt
    let recon := toHalf (cand s.params s.act (hop0 - minOf s.act.cfg) level + minOf s.act.cfg)
    let word := 0xB0000000#32 ||| h.setWidth 32 <<< 16 ||| recon.setWidth 32
    let small := level.natAbs ≤ s.act.cfg.shrinkBand.toNat
    exec (.qdec h) s =
      .next (s.setCh s.active
        { s.act with
          stepSize :=
            if small ∧ s.act.lws = true then
              BitVec.ofInt 16
                (max ((s.act.stepSize.toNat : Int) - s.act.cfg.stepDec.toNat) s.act.cfg.stepMin.toNat)
            else s.act.cfg.stepMax
          lws := decide small, r2 := s.act.r1, r1 := recon, idx := s.act.idx + 1
          outQ := s.act.outQ ++ [word], emitted := s.act.emitted ++ [word] })

/-- R149, R151, R167, R196: QDEC and SENC fault STATE outside their pass, then HOP, and QDEC then
COUNT, and write nothing else. -/
def Obligations.HopCommandFaults : Prop :=
  ∀ (s : State) (h : Nibble),
    let faults := fun i code =>
      exec i s = .next (s.setCh s.active { s.act with state := .fault, err := code })
    (s.act.state = .idle ∨ s.act.state = .encode → faults (.qdec h) .state) ∧
    (s.act.state = .idle ∨ s.act.state = .decode → faults (.senc h) .state) ∧
    (s.act.state = .decode → nlOf s.act.cfg ≤ h.toNat → faults (.qdec h) .hop) ∧
    (s.act.state = .encode → nlOf s.act.cfg ≤ h.toNat → faults (.senc h) .hop) ∧
    (s.act.state = .decode → h.toNat < nlOf s.act.cfg →
      s.act.cfg.sampleCount.toNat < s.act.idx.toNat + 1 → faults (.qdec h) .count)

/-- R150, one sample: fed the hop that the quantizer gave, a reconstructor in the same predictor
state gives the same sample and the same predictor state. -/
def Obligations.ReconstructorReplaysSample : Prop :=
  ∀ (p : Params) (e d : Channel) (o : Half),
    1 ≤ nlOf e.cfg → d.cfg = e.cfg → samePredictor e d → (e.idx = 0 → d.firstAmp = o) →
    reconSample p d (quantOut p e o).1 = (quantOut p e o).2 ∧
    samePredictor (quantStep p e o) (reconStep p d (quantOut p e o).1)

/-- R150, R154: a pass. The hops that QENC gives for a list of samples, fed to QDEC under the same
configuration, parameters, predictor state and seed, raise no fault, reproduce the samples in order
and leave the same predictor state. -/
def Obligations.PassRoundTrip : Prop :=
  ∀ (os : List Half) (s t d : State),
    s.params = d.params → s.act.state = .encode → d.act.state = .decode →
    d.act.cfg = s.act.cfg → cfgValid s.act.cfg = true → samePredictor s.act d.act →
    (s.act.idx = 0 → ∀ o, os.head? = some o → d.act.firstAmp = o) →
    runCommands (os.map .qenc) s = .next t → t.act.state = .encode →
    ∃ out : List (Nibble × Half), out.length = os.length ∧
      t.act.outQ = s.act.outQ ++ out.map (fun x => qrecWord x.1 x.2) ∧
      ∃ u, runCommands (out.map fun x => .qdec x.1) d = .next u ∧ u.act.state = .decode ∧
        u.act.outQ = d.act.outQ ++ out.map (fun x => drecWord x.1 x.2) ∧
        samePredictor t.act u.act

/-! ### Symbol codec (43_symbol_codec.md) -/

/-- R161: the relax rule is `ceil((X + 8) / 2)`. -/
def Obligations.RelaxRule : Prop :=
  ∀ x : Word, ((relaxX x).toNat : Int) = ⌈((x.toNat : ℚ) + 8) / 2⌉

/-- R164 to R167: the whole effect of SENC on a hop in range: a center symbol counted, a run
collapsed, or a pending run broken and the symbol emitted; and the stop of I9. -/
def Obligations.SencResult : Prop :=
  ∀ (s : State) (h : Nibble),
    s.act.state = .encode → h.toNat < nlOf s.act.cfg →
    let n := s.act.run.toNat
    let x := s.act.xlen.toNat
    let y := prioOf s.act.cfg h.toNat
    (y = 0 → n + 1 ≠ x →
      exec (.senc h) s = .next (s.setCh s.active { s.act with run := s.act.run + 1 })) ∧
    (y = 0 → n + 1 = x → x + 2 < 2 ^ 32 →
      exec (.senc h) s = .next (s.setCh s.active
        { s.act with
          outQ := s.act.outQ ++ [0xA0000058], emitted := s.act.emitted ++ [0xA0000058]
          symCount := s.act.symCount + 1, xlen := s.act.xlen + 2, run := 0 })) ∧
    (y = 0 → n + 1 = x → 2 ^ 32 ≤ x + 2 → exec (.senc h) s = .refused .thresholdBeyondSpec) ∧
    (y ≠ 0 →
      let words := List.replicate n 0xA0000000 ++ [0xA0000000#32 ||| y.setWidth 32]
      exec (.senc h) s = .next (s.setCh s.active
        { s.act with
          outQ := s.act.outQ ++ words, emitted := s.act.emitted ++ words
          symCount := s.act.symCount + BitVec.ofNat 32 (n + 1)
          xlen := if n = 0 then s.act.xlen else BitVec.ofNat 32 ((x + 9) / 2), run := 0 }))

/-- R171, R173: the whole effect of SDEC on a symbol that its checks accept; and the stop of I9. -/
def Obligations.SdecResult : Prop :=
  ∀ (s : State) (y : Byte), s.act.state = .decode →
    let n := s.act.run.toNat
    let x := s.act.xlen.toNat
    let k := (nlOf s.act.cfg - 1) / 2
    let center : Word := 0xC0000000#32 ||| BitVec.ofNat 32 k <<< 16
    (y = 0x58 → n = 0 → x + 2 < 2 ^ 32 →
      exec (.sdec y) s = .next (s.setCh s.active
        { s.act with
          outQ := s.act.outQ ++ List.replicate x center
          emitted := s.act.emitted ++ List.replicate x center
          symCount := s.act.symCount + 1, xlen := s.act.xlen + 2 })) ∧
    (y = 0x58 → n = 0 → 2 ^ 32 ≤ x + 2 → exec (.sdec y) s = .refused .thresholdBeyondSpec) ∧
    (y = 0 → 1 ≤ nlOf s.act.cfg → n + 1 < x →
      exec (.sdec y) s = .next (s.setCh s.active
        { s.act with
          outQ := s.act.outQ ++ [center], emitted := s.act.emitted ++ [center]
          symCount := s.act.symCount + 1, run := s.act.run + 1 })) ∧
    (y ≠ 0 → y.toNat < nlOf s.act.cfg → ∀ h : Nibble,
      h.toNat < nlOf s.act.cfg → (prioOf s.act.cfg h.toNat).toNat = y.toNat →
      cfgValid s.act.cfg = true →
      let word := 0xC0000000#32 ||| h.setWidth 32 <<< 16
      exec (.sdec y) s = .next (s.setCh s.active
        { s.act with
          outQ := s.act.outQ ++ [word], emitted := s.act.emitted ++ [word]
          symCount := s.act.symCount + 1
          xlen := if n = 0 then s.act.xlen else BitVec.ofNat 32 ((x + 9) / 2), run := 0 }))

/-- R172, R173, R176, R182, R196: SDEC and DEC fault STATE outside DECODE, then SYMBOL, then RUN, and
write nothing else. -/
def Obligations.SymbolCommandFaults : Prop :=
  ∀ (s : State) (y : Byte) (i : Instr), i = .sdec y ∨ i = .dec y →
    let faults := fun code =>
      exec i s = .next (s.setCh s.active { s.act with state := .fault, err := code })
    (s.act.state = .idle ∨ s.act.state = .encode → faults .state) ∧
    (s.act.state = .decode → y ≠ 0x58 → nlOf s.act.cfg ≤ y.toNat → faults .symbol) ∧
    (s.act.state = .decode → y = 0x58 → s.act.run.toNat ≠ 0 → faults .run) ∧
    (s.act.state = .decode → y = 0 → 1 ≤ nlOf s.act.cfg →
      s.act.xlen.toNat ≤ s.act.run.toNat + 1 → faults .run)

/-- R175: the threshold schedule. In a fresh encode pass eight null hops and another hop give the
meta-symbol and the other symbol, and the threshold 10; seven give seven literals and the other
symbol, and the threshold 8. -/
def Obligations.ThresholdSchedule : Prop :=
  ∀ (s : State) (h : Nibble),
    s.act.state = .encode → cfgValid s.act.cfg = true → s.act.xlen = 8 → s.act.run = 0 →
    h.toNat < nlOf s.act.cfg → h.toNat ≠ kOf s.act.cfg →
    let other := symWord (rankOf s.act.cfg h)
    let nulls := fun n => List.replicate n (Instr.senc (nullHop s.act.cfg))
    (∃ t, runCommands (nulls 8 ++ [.senc h]) s = .next t ∧
      t.act.outQ = s.act.outQ ++ [0xA0000058, other] ∧ t.act.xlen = 10 ∧ t.act.run = 0) ∧
    (∃ t, runCommands (nulls 7 ++ [.senc h]) s = .next t ∧
      t.act.outQ = s.act.outQ ++ List.replicate 7 0xA0000000 ++ [other] ∧
      t.act.xlen = 8 ∧ t.act.run = 0)

/-- R174: the symbol round trip. The bytes that a fresh encode pass emits for any hops in range,
its END included, decode in a fresh pass under the same configuration, without a fault, to exactly
those hops, and as many bytes are counted. -/
def Obligations.SymbolRoundTrip : Prop :=
  ∀ (hs : List Nibble) (s t d : State),
    s.act.state = .encode → d.act.state = .decode → d.act.cfg = s.act.cfg →
    cfgValid s.act.cfg = true → (∀ h ∈ hs, h.toNat < nlOf s.act.cfg) →
    s.act.xlen = 8 → s.act.run = 0 → s.act.outQ = [] → s.act.symCount = 0 →
    d.act.xlen = 8 → d.act.run = 0 → d.act.outQ = [] → d.act.symCount = 0 →
    runCommands (hs.map .senc ++ [.end_]) s = .next t →
    ∃ u, runCommands ((symBytes t.act.outQ).map .sdec) d = .next u ∧ u.act.state = .decode ∧
      u.act.outQ = hs.map hopWord ∧ u.act.symCount = t.act.symCount

/-- R111 (with R99, R169): START sets `SYM_COUNT` to 0; in an encode pass it grows by the number of SYM
words emitted; in a decode pass by one for a DEC or SDEC that completes, and by nothing else; ABORT
and END do not clear it. -/
def Obligations.SymCountRule : Prop :=
  ∀ (i : Instr) (s t : State), exec i s = .next t →
    (s.act.state = .idle →
      (∀ mode, i = .start mode → t.act.state ≠ .fault → t.act.symCount = 0) ∧
      ((∀ mode, i ≠ .start mode) → t.act.symCount = s.act.symCount)) ∧
    (s.act.state = .encode →
      ∃ new, t.act.emitted = s.act.emitted ++ new ∧
        t.act.symCount = s.act.symCount + BitVec.ofNat 32 (symBytes new).length) ∧
    (s.act.state = .decode →
      let accepts := (∃ y, i = .dec y ∨ i = .sdec y) ∧ t.act.state = .decode
      (accepts → t.act.symCount = s.act.symCount + 1) ∧
      (¬ accepts → t.act.symCount = s.act.symCount)) ∧
    (s.act.state = .fault → t.act.symCount = s.act.symCount)

/-! ### Combined commands (44_pipeline.md) -/

/-- R185, first half: ENC is QENC followed by SENC of the hop that QENC emitted. -/
def Obligations.EncIsQencThenSenc : Prop :=
  ∀ (s t : State) (o : Half),
    s.act.state = .encode → cfgValid s.act.cfg = true →
    exec (.qenc o) s = .next t → t.act.state = .encode →
    ∃ (h : Nibble) (recon : Half), t.act.outQ = s.act.outQ ++ [qrecWord h recon] ∧
      exec (.enc o) s = exec (.senc h) t

/-- R180, R181: ENC completes on a sample it accepts, with the quantizer's writes, and emits the QREC
word first and then the symbols of the hop. -/
def Obligations.EncResult : Prop :=
  ∀ (s : State) (o : Half),
    s.act.state = .encode → inBounds s.act.cfg o = true →
    s.act.idx.toNat + 1 ≤ s.act.cfg.sampleCount.toNat → s.act.xlen.toNat + 2 < 2 ^ 32 →
    let h := (quantOut s.params s.act o).1
    let recon := (quantOut s.params s.act o).2
    let n := s.act.run.toNat
    let x := s.act.xlen.toNat
    let y := prioOf s.act.cfg h.toNat
    let symbols :=
      if y = 0 then (if n + 1 = x then [0xA0000058] else [])
      else List.replicate n 0xA0000000 ++ [0xA0000000#32 ||| y.setWidth 32]
    exec (.enc o) s =
      .next (s.setCh s.active
        { quantStep s.params s.act o with
          outQ := s.act.outQ ++ qrecWord h recon :: symbols
          emitted := s.act.emitted ++ qrecWord h recon :: symbols
          symCount := s.act.symCount + BitVec.ofNat 32 symbols.length
          xlen :=
            if y = 0 then (if n + 1 = x then s.act.xlen + 2 else s.act.xlen)
            else if n = 0 then s.act.xlen else BitVec.ofNat 32 ((x + 9) / 2)
          run := if y = 0 then (if n + 1 = x then 0 else s.act.run + 1) else 0 })

/-- R182, R183, R184: DEC completes on a symbol that its checks accept. One hop: the reconstructor's
step and its DREC word. A meta-symbol: the reconstructor's step and its DREC word for `X` null hops,
one after the other, from the channel with its symbol counted and its threshold grown; and what comes
of it: `X` words, `i` moved by `X`, the last sample in `r1`. -/
def Obligations.DecResult : Prop :=
  ∀ (s : State) (y : Byte), s.act.state = .decode → cfgValid s.act.cfg = true →
    let n := s.act.run.toNat
    let x := s.act.xlen.toNat
    (∀ h : Nibble, h.toNat < nlOf s.act.cfg → (prioOf s.act.cfg h.toNat).toNat = y.toNat →
      (y = 0 → n + 1 < x) → s.act.idx.toNat + 1 ≤ s.act.cfg.sampleCount.toNat →
      let word := drecWord h (reconSample s.params s.act h)
      exec (.dec y) s =
        .next (s.setCh s.active
          { reconStep s.params s.act h with
            outQ := s.act.outQ ++ [word], emitted := s.act.emitted ++ [word]
            symCount := s.act.symCount + 1
            xlen := if y = 0 ∨ n = 0 then s.act.xlen else BitVec.ofNat 32 ((x + 9) / 2)
            run := if y = 0 then s.act.run + 1 else 0 })) ∧
    (y = 0x58 → n = 0 → s.act.idx.toNat + x ≤ s.act.cfg.sampleCount.toNat →
      let oneHop := fun (ch : Channel) (h : Nibble) =>
        let word := drecWord h (reconSample s.params ch h)
        { reconStep s.params ch h with outQ := ch.outQ ++ [word], emitted := ch.emitted ++ [word] }
      let start := { s.act with symCount := s.act.symCount + 1, xlen := s.act.xlen + 2 }
      let final := (List.replicate x (nullHop s.act.cfg)).foldl oneHop start
      exec (.dec y) s = .next (s.setCh s.active final) ∧
      final.state = .decode ∧ final.idx.toNat = s.act.idx.toNat + x ∧
      final.xlen = s.act.xlen + 2 ∧ final.run = 0 ∧ final.symCount = s.act.symCount + 1 ∧
      ∃ samples : List Half, samples.length = x ∧
        final.outQ = s.act.outQ ++ samples.map (drecWord (nullHop s.act.cfg)) ∧
        ∀ last, samples.getLast? = some last → final.r1 = last)

/-- R183: a symbol whose hops would overrun the sample count faults COUNT and reconstructs none of
them. -/
def Obligations.DecCountBeforeAnyWrite : Prop :=
  ∀ (s : State) (y : Byte), s.act.state = .decode →
    let faults :=
      exec (.dec y) s = .next (s.setCh s.active { s.act with state := .fault, err := .count })
    (y = 0x58 → s.act.run.toNat = 0 →
      s.act.cfg.sampleCount.toNat < s.act.idx.toNat + s.act.xlen.toNat → faults) ∧
    (y ≠ 0x58 → y.toNat < nlOf s.act.cfg → (y = 0 → s.act.run.toNat + 1 < s.act.xlen.toNat) →
      s.act.cfg.sampleCount.toNat < s.act.idx.toNat + 1 → faults)

/-- R185, second half: DEC has the state effect of SDEC followed by one QDEC for each hop that SDEC
emitted, and emits the DREC words of those QDECs only. -/
def Obligations.DecIsSdecThenQdecs : Prop :=
  ∀ (s t : State) (y : Byte),
    s.act.state = .decode → cfgValid s.act.cfg = true →
    exec (.dec y) s = .next t → t.act.state = .decode →
    ∃ (s1 s2 : State) (hops : List Nibble) (words : List Word),
      exec (.sdec y) s = .next s1 ∧ s1.act.outQ = s.act.outQ ++ hops.map hopWord ∧
      runCommands (hops.map .qdec) s1 = .next s2 ∧
      s2.act.outQ = s1.act.outQ ++ words ∧ t.act.outQ = s.act.outQ ++ words ∧
      t.act = { s2.act with outQ := t.act.outQ, emitted := t.act.emitted }

/-! ### Faults and channels (60_exceptions.md) -/

/-- R193: a word, or a write to a command queue, that raises a fault writes `STATE` and `ERR_CODE`
and nothing else (beside the queue that the word leaves and the model's own count of draws); `DONE`
is 0 in every open pass of a reachable state. -/
def Obligations.FaultEntryWritesNothingElse : Prop :=
  (∀ (s t : State) (c : Chan) (q : Queued) (rest : List Queued),
    runWord s c q rest = .next t → (s.ch c).state ≠ .fault → (t.ch c).state = .fault →
    ∃ (code : ErrCode) (d : Nat), code ≠ .none ∧
      t = { (s.taken c q rest).setCh c { s.ch c with cmdQ := rest, state := .fault, err := code } with
            draws := d }) ∧
  (∀ (s : State) (off : Nat) (v : Word) (c : Chan),
    (s.ch c).state ≠ .fault → ((busWrite s off v).ch c).state = .fault →
    busWrite s off v = s.setCh c { s.ch c with state := .fault, err := .overflow }) ∧
  (∀ (depth : Nat) (ch : Channel), ChanInv depth ch →
    ch.state = .encode ∨ ch.state = .decode → ch.done = false)

/-- R197: a word that a channel executes, and a write to its registers, faulting or not, change
nothing of the other channel, nor of the configuration, the parameters and the host's side. -/
def Obligations.ChannelsIsolated : Prop :=
  (∀ (s t : State) (c : Chan) (q : Queued) (rest : List Queued), runWord s c q rest = .next t →
    (∀ other, other ≠ c → t.ch other = s.ch other) ∧ t.live = s.live ∧ t.params = s.params ∧
      t.host = s.host ∧ t.readLog = s.readLog ∧ t.schedule = s.schedule) ∧
  (∀ (s : State) (off : Nat) (v : Word),
    (0x100 ≤ off → off < 0x140 → (busWrite s off v).ch1 = s.ch1) ∧
    (0x140 ≤ off → off < 0x180 → (busWrite s off v).ch0 = s.ch0) ∧
    (0x100 ≤ off → off < 0x180 →
      let t := busWrite s off v
      t.live = s.live ∧ t.params = s.params ∧ t.host = s.host ∧ t.readLog = s.readLog ∧
        t.schedule = s.schedule))

/-- R113, R35, R44: what a command does to its channel depends on that channel, the parameters, and for
a START alone the configuration it latches, and on nothing else: not on the other channel, the host or
the schedule, nor, for any command but START, on the live configuration registers. -/
def Obligations.ChannelNoninterference : Prop :=
  ∀ (i : Instr) (s1 s2 : State),
    s1.act = s2.act → s1.params = s2.params →
    (∀ mode, i = .start mode → s1.latched = s2.latched) →
    (∀ t1, exec i s1 = .next t1 → ∃ t2, exec i s2 = .next t2 ∧ t2.act = t1.act) ∧
    (∀ why, exec i s1 = .refused why → exec i s2 = .refused why)

/-! ### Registers and the bus (10_state.md, 20_memory.md) -/

/-- R21, R22, R38 to R43, R191: what a bus read of each read-only register and of `CH_FIRST_AMP`
returns, without a side effect; the fields of `CH_STATUS` with the numbers of R39 and R191 (`BUSY` as
the model has it between commands, log entry 1). -/
def Obligations.ReadOnlyRegisters : Prop :=
  ∀ s : State,
    busRead s 0x000 = (0x4C484501, s) ∧
    (let hwcfg := (busRead s 0x004).1
     (busRead s 0x004).2 = s ∧
     field hwcfg 0 2 = (match s.params.numChannels with | .one => 1 | .two => 2) ∧
     field hwcfg 2 2 = 0 ∧ field hwcfg 4 4 = 15 ∧ field hwcfg 8 8 = s.params.cmdqDepth ∧
     field hwcfg 16 8 = s.params.outqDepth ∧ field hwcfg 24 8 = 0) ∧
    ∀ c : Chan, s.present c = true →
      let base : Nat := match c with | .ch0 => 0x100 | .ch1 => 0x140
      let ch := s.ch c
      let status := (busRead s (base + 0x08)).1
      ((busRead s (base + 0x08)).2 = s ∧
       field status 0 2 =
         (match ch.state with | .idle => 0 | .encode => 1 | .decode => 2 | .fault => 3) ∧
       status.getLsbD 2 = !ch.cmdQ.isEmpty ∧
       status.getLsbD 3 = ch.done ∧
       field status 4 4 =
         (match ch.err with
          | .none => 0 | .config => 1 | .state => 2 | .opcode => 3 | .sample => 4
          | .hop => 5 | .symbol => 6 | .run => 7 | .count => 8 | .overflow => 9) ∧
       status.getLsbD 8 = decide (ch.run ≠ 0) ∧
       status.getLsbD 9 = ch.lws ∧
       field status 10 6 = 0 ∧
       field status 16 8 = BitVec.ofNat 8 ch.cmdQ.length ∧
       field status 24 8 = BitVec.ofNat 8 (min 255 ch.outQ.length)) ∧
      busRead s (base + 0x0C) = (ch.firstAmp.setWidth 32, s) ∧
      busRead s (base + 0x10) = (ch.symCount, s) ∧
      busRead s (base + 0x14) = (ch.idx, s) ∧
      busRead s (base + 0x18) = (ch.stepSize.setWidth 32, s) ∧
      busRead s (base + 0x1C) = (ch.r1.setWidth 32 ||| ch.r2.setWidth 32 <<< 16, s) ∧
      busRead s (base + 0x20) = (ch.xlen, s) ∧
      busRead s (base + 0x24) = (ch.run, s)

/-- R52, R34: a configuration register reads back what was written, reserved bits 0, and the write
changes no other configuration register. -/
def Obligations.ConfigReadBack : Prop :=
  ∀ (s : State) (v : Word) (off : Nat) (mask : Word),
    (off, mask) ∈ [(0x010, 0x0007010F), (0x014, 0x0000FFFF), (0x018, 0xFFFFFFFF),
      (0x01C, 0xFFFFFFFF), (0x020, 0xFFFFFFFF), (0x024, 0x0000FFFF), (0x028, 0xFFFFFFFF),
      (0x02C, 0x7FFFFFFF), (0x030, 0xFFFFFFFF), (0x034, 0x0FFFFFFF)] →
    (busRead (busWrite s off v) off).1 = v &&& mask ∧
    ∀ other, 0x010 ≤ other → other ≤ 0x034 → other ≠ off →
      (busRead (busWrite s off v) other).1 = (busRead s other).1

/-- R44, R76, R224: a write to a configuration register changes no channel (no latched configuration,
no pass state, no queued word), but that every START waiting in a queue notes it: its record grows by
exactly the register and the value that the register held before (log entry 8). -/
def Obligations.ConfigWriteKeepsPasses : Prop :=
  ∀ (s : State) (v : Word) (off : Nat) (c : Chan),
    let t := busWrite s off v
    (0x010 ≤ off → off ≤ 0x034 →
      { t.ch c with cmdQ := (s.ch c).cmdQ } = s.ch c ∧
      (t.ch c).cmdQ.map (·.word) = (s.ch c).cmdQ.map (·.word)) ∧
    ∀ r : CfgReg,
      (off, r) ∈ [(0x010, CfgReg.mode), (0x014, .exp), (0x018, .rfact), (0x01C, .maxr),
        (0x020, .step), (0x024, .stepDec), (0x028, .bounds), (0x02C, .count), (0x030, .prioLo),
        (0x034, .prioHi)] →
      (t.ch c).cmdQ = (s.ch c).cmdQ.map fun q =>
        if field q.word 28 4 = 1 ∧ field q.word 1 27 = 0 then
          { q with raced := q.raced ++ [(r, (busRead s off).1)] }
        else q

/-- R34, R50: a reserved offset, and all of channel 1's window on an instance with one channel, reads
0 and ignores writes; registers that are read-only ignore writes; no side effect. -/
def Obligations.ReservedAndReadOnly : Prop :=
  ∀ (s : State) (v : Word) (off : Nat),
    ((off = 0x00C ∨ 0x038 ≤ off ∧ off < 0x100 ∨ 0x128 ≤ off ∧ off < 0x140 ∨
        0x168 ≤ off ∧ off < 0x200 ∨
        s.params.numChannels = .one ∧ 0x140 ≤ off ∧ off < 0x180) →
      busRead s off = (0, s) ∧ busWrite s off v = s) ∧
    ((off = 0x000 ∨ off = 0x004 ∨ off = 0x104 ∨ off = 0x108 ∨ 0x110 ≤ off ∧ off ≤ 0x124 ∨
        off = 0x144 ∨ off = 0x148 ∨ 0x150 ≤ off ∧ off ≤ 0x164) → busWrite s off v = s)

/-- R37, R64: only a read of `CH_OUT` has a side effect: it returns and removes the oldest word, and
from an empty queue returns 0 and changes nothing. -/
def Obligations.OnlyOutputReadPops : Prop :=
  ∀ s : State,
    (∀ off, off ≠ 0x104 → (off = 0x144 → s.params.numChannels = .one) → (busRead s off).2 = s) ∧
    (∀ w ws, s.ch0.outQ = w :: ws →
      busRead s 0x104 = (w, { s with ch0 := { s.ch0 with outQ := ws } })) ∧
    (s.ch0.outQ = [] → busRead s 0x104 = (0, s)) ∧
    (s.params.numChannels = .two → ∀ w ws, s.ch1.outQ = w :: ws →
      busRead s 0x144 = (w, { s with ch1 := { s.ch1 with outQ := ws } })) ∧
    (s.params.numChannels = .two → s.ch1.outQ = [] → busRead s 0x144 = (0, s))

/-- R36, R198: a write to `CH_CMD` appends the word; into a full queue the word is lost and raises
OVERFLOW, but in FAULT it is lost and nothing changes. Reads return 0. -/
def Obligations.CommandWrite : Prop :=
  ∀ (s : State) (c : Chan) (v : Word),
    s.present c = true →
    let off := match c with | .ch0 => 0x100 | .ch1 => 0x140
    let ch := s.ch c
    let depth := s.params.cmdqDepth.toNat
    (ch.cmdQ.length < depth →
      busWrite s off v = s.setCh c { ch with cmdQ := ch.cmdQ ++ [⟨v, []⟩] }) ∧
    (depth ≤ ch.cmdQ.length → ch.state ≠ .fault →
      busWrite s off v = s.setCh c { ch with state := .fault, err := .overflow }) ∧
    (depth ≤ ch.cmdQ.length → ch.state = .fault → busWrite s off v = s) ∧
    busRead s off = (0, s)

/-- R40, R225: a write to `CH_FIRST_AMP` is ignored in ENCODE and DECODE; in IDLE and FAULT it is
performed when no command is queued, and otherwise performed or ignored (log entry 9). -/
def Obligations.FirstAmpWrite : Prop :=
  ∀ (s : State) (c : Chan) (v : Word),
    s.present c = true →
    let off := match c with | .ch0 => 0x10C | .ch1 => 0x14C
    let ch := s.ch c
    let after := (busWrite s off v).ch c
    let performed := { ch with firstAmp := v.setWidth 16 }
    (ch.state = .encode ∨ ch.state = .decode → after = ch) ∧
    (ch.state = .idle ∨ ch.state = .fault → ch.cmdQ = [] → after = performed) ∧
    (ch.state = .idle ∨ ch.state = .fault → after = performed ∨ after = ch)

/-- R215, R216, R219: the platform's reset and a write to `CTRL` with bit 0 set, its other bits
ignored, have one effect: every register and state element of R53 takes its reset value, in both
channels, and the queues are emptied. A write with bit 0 clear has none, and `CTRL` always reads 0. -/
def Obligations.ResetEffect : Prop :=
  ∀ (s : State) (v : Word),
    busRead s 0x008 = (0, s) ∧
    (v.getLsbD 0 = false → busWrite s 0x008 v = s) ∧
    (v.getLsbD 0 = true →
      hostEvent s .hardReset = .next (busWrite s 0x008 v) ∧
      let t := busWrite s 0x008 v
      t.live = PassConfig.reset ∧
      (∀ c, t.ch c =
        { state := .idle, done := false, err := .none, firstAmp := 0, symCount := 0,
          cfg := PassConfig.reset, idx := 0, r1 := 0, r2 := 0, stepSize := 0, lws := false,
          xlen := 8, run := 0, cmdQ := [], outQ := [], emitted := (s.ch c).emitted }) ∧
      [0x008, 0x010, 0x014, 0x018, 0x01C, 0x020, 0x024, 0x028, 0x02C, 0x030, 0x034].map
          (fun off => (busRead t off).1) =
        [0x00000000, 0x00010009, 0x00000103, 0x00010000, 0x00040000, 0x00400004, 0x00000004,
          0x7FFF8000, 0x7FFFFFFF, 0x53102468, 0x0EDCBA97])

/-- R217: after reset every channel is IDLE and not BUSY and its engine executes nothing, the reset
configuration is valid, and a START of either mode succeeds at once. -/
def Obligations.StartSucceedsAfterReset : Prop :=
  cfgValid PassConfig.reset = true ∧
  ∀ (s : State) (c : Chan),
    (s.resetBlock.ch c).state = .idle ∧ busyOf (s.resetBlock.ch c) = false ∧
    engineStep s.resetBlock c = .next s.resetBlock ∧
    ∀ mode : PassMode,
      ∃ t, exec (.start mode) { s.resetBlock with active := c, raced := [] } = .next t ∧
        (t.ch c).state = openState mode ∧ (t.ch c).err = .none ∧ (t.ch c).stepSize = 64 ∧
        (t.ch c).xlen = 8

/-- R61, R62, I3: in the window, an access narrower than a word or at no multiple of 4 is refused; an
aligned word access is performed. That an access both narrow and misaligned is refused as narrow is the
model's choice (log entry 12). -/
def Obligations.AccessForms : Prop :=
  ∀ (s : State) (width : Width) (off : Nat) (v : Word), off < 0x200 →
    let addr := s.params.blockBase + off
    (width ≠ .word →
      hostEvent s (.read width addr) = .refused .narrowAccess ∧
      hostEvent s (.write width addr v) = .refused .narrowAccess) ∧
    (width = .word → off % 4 ≠ 0 →
      hostEvent s (.read width addr) = .refused .misalignedAccess ∧
      hostEvent s (.write width addr v) = .refused .misalignedAccess) ∧
    (width = .word → off % 4 = 0 →
      hostEvent s (.read width addr) =
        .next { (busRead s off).2 with readLog := s.readLog ++ [(busRead s off).1] } ∧
      hostEvent s (.write width addr v) = .next (busWrite s off v))

/-! ### The machine -/

/-- R70, R80, R84, R85, R210: the engine whose turn it is executes its oldest word, unless a full output
queue holds it: the word leaves the queue, its race record is noted, and the step is `exec` of the
decoded command there, or that of an illegal word. An engine with an empty queue, or of a channel that
the instance does not have (R50), changes nothing. -/
def Obligations.StepRunsDecoded : Prop :=
  (∀ (s : State) (c : Chan) (q : Queued) (rest : List Queued) (later : List Agent),
    s.schedule = .engine c :: later → s.present c = true →
    heldBack { s with schedule := later } c = false → (s.ch c).cmdQ = q :: rest →
    let taken := { s with schedule := later, active := c, raced := q.raced }.setCh c
      { s.ch c with cmdQ := rest }
    (∀ i, decode q.word = .ok i → step s = exec i taken) ∧
    (∀ e, decode q.word = .error e → step s = execIllegal taken)) ∧
  (∀ (s : State) (c : Chan) (q : Queued) (rest : List Queued),
    s.present c = true → heldBack s c = false → (s.ch c).cmdQ = q :: rest →
    engineStep s c = runWord s c q rest) ∧
  (∀ (s : State) (c : Chan), (s.ch c).cmdQ = [] ∨ s.present c = false → engineStep s c = .next s)

/-- R69, R71, R73, R217, R233: who moves. The host performs the first of what it has yet to do, once,
and has the rest left, in order; with nothing to do it changes nothing (log entry 17). The movers are the host while it has something to do, and every
channel of the instance with a command that no full output queue holds. The schedule names who moves,
any agent at any time (log entry 2); when none is left, some mover moves, a free choice of log entry 2;
where there is no mover, nothing changes (log entry 17), or the block hangs on a full output queue (log
entry 7). -/
def Obligations.SomeMoverMoves : Prop :=
  ∀ s : State,
    (.host ∈ movers s ↔ s.host ≠ []) ∧
    (∀ c, .engine c ∈ movers s ↔
      s.present c = true ∧ (s.ch c).cmdQ ≠ [] ∧ heldBack s c = false) ∧
    (∀ (a : Agent) (later : List Agent), s.schedule = a :: later →
      step s = agentStep { s with schedule := later } a) ∧
    (∀ e rest, s.host = e :: rest → agentStep s .host = hostEvent { s with host := rest } e) ∧
    (s.host = [] → agentStep s .host = .next s) ∧
    (∀ c, agentStep s (.engine c) = engineStep s c) ∧
    (s.schedule = [] → movers s ≠ [] →
      ∃ a ∈ movers s, ∃ d, step s = agentStep { s with draws := d } a) ∧
    (s.schedule = [] → movers s = [] →
      step s = if stalled s then .fault .outputStall else .next s)

/-- R228, I6: where the instance holds its output queue to `OUTQ_DEPTH`, a command whose output does
not fit does not begin: its engine's step changes nothing. A command whose output fits, or that emits
nothing, is not held, and none is where the instance does not hold its output (log entries 7 and 20). -/
def Obligations.HeldCommandWaits : Prop :=
  (∀ (s t : State) (c : Chan) (q : Queued) (rest : List Queued),
    s.params.holdOutput = true → (s.ch c).cmdQ = q :: rest →
    runWord s c q rest = .next t → (s.ch c).outQ.length < (t.ch c).outQ.length →
    s.params.outqDepth.toNat < (t.ch c).outQ.length →
    engineStep s c = .next s ∧ busyOf (s.ch c) = true) ∧
  (∀ (s t : State) (c : Chan) (q : Queued) (rest : List Queued),
    (s.ch c).cmdQ = q :: rest → runWord s c q rest = .next t →
    (t.ch c).outQ.length ≤ (s.ch c).outQ.length ∨
      (t.ch c).outQ.length ≤ s.params.outqDepth.toNat →
    heldBack s c = false) ∧
  (∀ (s : State) (c : Chan), s.params.holdOutput = false → heldBack s c = false)

/-- R8, R53, R162, R212: the invariant holds at reset, the state of an instance with the default
parameters (log entry 4). -/
def Obligations.InvariantAtReset : Prop := MachineInv State.reset

/-- R8, R46, R47, R110, R139, R141, R162, R212: every step keeps the invariant, whoever moves. -/
def Obligations.StepKeepsInvariant : Prop :=
  ∀ s t : State, MachineInv s → step s = .next t → MachineInv t
end

