-- ==== Sys2Proof/Laws/State.lean ====
section
/-! SUPPORT. One lemma per field per update of a channel and of the state, true by computation, so
that no later proof unfolds an update. -/

namespace Sys2Proof.Machine

/-! ### The two channels of a state -/

@[simp] theorem State.ch_ch0 (s : State) : s.ch .ch0 = s.ch0 := rfl

@[simp] theorem State.ch_ch1 (s : State) : s.ch .ch1 = s.ch1 := rfl

@[simp] theorem State.ch_setCh_same (s : State) (c : Chan) (ch : Channel) :
    (s.setCh c ch).ch c = ch := by cases c <;> rfl

theorem State.ch_setCh_other (s : State) {c d : Chan} (ch : Channel) (h : d ≠ c) :
    (s.setCh c ch).ch d = s.ch d := by
  cases c <;> cases d <;> first | rfl | exact absurd rfl h

/-- Writing back what a channel holds changes nothing. -/
@[simp] theorem State.setCh_self (s : State) (c : Chan) : s.setCh c (s.ch c) = s := by
  cases c <;> rfl

@[simp] theorem State.setCh_setCh (s : State) (c : Chan) (a b : Channel) :
    (s.setCh c a).setCh c b = s.setCh c b := by cases c <;> rfl

@[simp] theorem State.ch_tookLatch (s : State) (c : Chan) : s.tookLatch.ch c = s.ch c := by
  cases c <;> rfl

@[simp] theorem State.ch_resetBlock (s : State) (c : Chan) :
    s.resetBlock.ch c = (s.ch c).wipe := by cases c <;> rfl

@[simp] theorem State.ch_writeCfg (s : State) (r : CfgReg) (v : Word) (c : Chan) :
    (s.writeCfg r v).ch c = (s.ch c).noteWrite r (cfgRead s.live r) := by cases c <;> rfl

@[simp] theorem State.ch_taken_same (s : State) (c : Chan) (q : Queued) (rest : List Queued) :
    (s.taken c q rest).ch c = { s.ch c with cmdQ := rest } := by cases c <;> rfl

theorem State.ch_taken_other (s : State) {c d : Chan} (q : Queued) (rest : List Queued)
    (h : d ≠ c) : (s.taken c q rest).ch d = s.ch d := by
  cases c <;> cases d <;> first | rfl | exact absurd rfl h

/-- No replaced values: a START latches the live registers (R77). -/
@[simp] theorem State.latched_of_no_race (s : State) (h : s.raced = []) : s.latched = s.live := by
  simp [State.latched, h, withRaces]

/-- Two states with the same fields are the same. -/
theorem State.eq_of_fields {s t : State} (hp : s.params = t.params) (hl : s.live = t.live)
    (hc : ∀ c, s.ch c = t.ch c) (ha : s.active = t.active) (hr : s.raced = t.raced)
    (hh : s.host = t.host) (hg : s.readLog = t.readLog) (hs : s.schedule = t.schedule)
    (hd : s.draws = t.draws) : s = t := by
  have h0 := hc .ch0
  have h1 := hc .ch1
  cases s
  cases t
  simp_all

/-! ### The other fields of the state -/

@[simp] theorem State.setCh_params (s : State) (c : Chan) (ch : Channel) :
    (s.setCh c ch).params = s.params := by cases c <;> rfl

@[simp] theorem State.setCh_live (s : State) (c : Chan) (ch : Channel) :
    (s.setCh c ch).live = s.live := by cases c <;> rfl

@[simp] theorem State.setCh_active (s : State) (c : Chan) (ch : Channel) :
    (s.setCh c ch).active = s.active := by cases c <;> rfl

@[simp] theorem State.setCh_raced (s : State) (c : Chan) (ch : Channel) :
    (s.setCh c ch).raced = s.raced := by cases c <;> rfl

@[simp] theorem State.setCh_host (s : State) (c : Chan) (ch : Channel) :
    (s.setCh c ch).host = s.host := by cases c <;> rfl

@[simp] theorem State.setCh_readLog (s : State) (c : Chan) (ch : Channel) :
    (s.setCh c ch).readLog = s.readLog := by cases c <;> rfl

@[simp] theorem State.setCh_schedule (s : State) (c : Chan) (ch : Channel) :
    (s.setCh c ch).schedule = s.schedule := by cases c <;> rfl

@[simp] theorem State.setCh_draws (s : State) (c : Chan) (ch : Channel) :
    (s.setCh c ch).draws = s.draws := by cases c <;> rfl

@[simp] theorem State.tookLatch_params (s : State) :
    (s.tookLatch).params = s.params := rfl

@[simp] theorem State.tookLatch_live (s : State) :
    (s.tookLatch).live = s.live := rfl

@[simp] theorem State.tookLatch_active (s : State) :
    (s.tookLatch).active = s.active := rfl

@[simp] theorem State.tookLatch_raced (s : State) :
    (s.tookLatch).raced = s.raced := rfl

@[simp] theorem State.tookLatch_host (s : State) :
    (s.tookLatch).host = s.host := rfl

@[simp] theorem State.tookLatch_readLog (s : State) :
    (s.tookLatch).readLog = s.readLog := rfl

@[simp] theorem State.tookLatch_schedule (s : State) :
    (s.tookLatch).schedule = s.schedule := rfl

@[simp] theorem State.tookLatch_draws (s : State) :
    (s.tookLatch).draws = s.draws + s.raced.length := rfl

@[simp] theorem State.resetBlock_params (s : State) :
    (s.resetBlock).params = s.params := rfl

@[simp] theorem State.resetBlock_live (s : State) :
    (s.resetBlock).live = PassConfig.reset := rfl

@[simp] theorem State.resetBlock_active (s : State) :
    (s.resetBlock).active = s.active := rfl

@[simp] theorem State.resetBlock_raced (s : State) :
    (s.resetBlock).raced = s.raced := rfl

@[simp] theorem State.resetBlock_host (s : State) :
    (s.resetBlock).host = s.host := rfl

@[simp] theorem State.resetBlock_readLog (s : State) :
    (s.resetBlock).readLog = s.readLog := rfl

@[simp] theorem State.resetBlock_schedule (s : State) :
    (s.resetBlock).schedule = s.schedule := rfl

@[simp] theorem State.resetBlock_draws (s : State) :
    (s.resetBlock).draws = s.draws := rfl

@[simp] theorem State.writeCfg_params (s : State) (r : CfgReg) (v : Word) :
    (s.writeCfg r v).params = s.params := rfl

@[simp] theorem State.writeCfg_live (s : State) (r : CfgReg) (v : Word) :
    (s.writeCfg r v).live = cfgWrite s.live v r := rfl

@[simp] theorem State.writeCfg_active (s : State) (r : CfgReg) (v : Word) :
    (s.writeCfg r v).active = s.active := rfl

@[simp] theorem State.writeCfg_raced (s : State) (r : CfgReg) (v : Word) :
    (s.writeCfg r v).raced = s.raced := rfl

@[simp] theorem State.writeCfg_host (s : State) (r : CfgReg) (v : Word) :
    (s.writeCfg r v).host = s.host := rfl

@[simp] theorem State.writeCfg_readLog (s : State) (r : CfgReg) (v : Word) :
    (s.writeCfg r v).readLog = s.readLog := rfl

@[simp] theorem State.writeCfg_schedule (s : State) (r : CfgReg) (v : Word) :
    (s.writeCfg r v).schedule = s.schedule := rfl

@[simp] theorem State.writeCfg_draws (s : State) (r : CfgReg) (v : Word) :
    (s.writeCfg r v).draws = s.draws := rfl

@[simp] theorem State.taken_params (s : State) (c : Chan) (q : Queued) (rest : List Queued) :
    (s.taken c q rest).params = s.params := by cases c <;> rfl

@[simp] theorem State.taken_live (s : State) (c : Chan) (q : Queued) (rest : List Queued) :
    (s.taken c q rest).live = s.live := by cases c <;> rfl

@[simp] theorem State.taken_active (s : State) (c : Chan) (q : Queued) (rest : List Queued) :
    (s.taken c q rest).active = c := by cases c <;> rfl

@[simp] theorem State.taken_raced (s : State) (c : Chan) (q : Queued) (rest : List Queued) :
    (s.taken c q rest).raced = q.raced := by cases c <;> rfl

@[simp] theorem State.taken_host (s : State) (c : Chan) (q : Queued) (rest : List Queued) :
    (s.taken c q rest).host = s.host := by cases c <;> rfl

@[simp] theorem State.taken_readLog (s : State) (c : Chan) (q : Queued) (rest : List Queued) :
    (s.taken c q rest).readLog = s.readLog := by cases c <;> rfl

@[simp] theorem State.taken_schedule (s : State) (c : Chan) (q : Queued) (rest : List Queued) :
    (s.taken c q rest).schedule = s.schedule := by cases c <;> rfl

@[simp] theorem State.taken_draws (s : State) (c : Chan) (q : Queued) (rest : List Queued) :
    (s.taken c q rest).draws = s.draws := by cases c <;> rfl

/-! ### The fields of a channel -/

@[simp] theorem Channel.emit_state (ch : Channel) (w : Word) :
    (ch.emit w).state = ch.state := rfl

@[simp] theorem Channel.emit_done (ch : Channel) (w : Word) :
    (ch.emit w).done = ch.done := rfl

@[simp] theorem Channel.emit_err (ch : Channel) (w : Word) :
    (ch.emit w).err = ch.err := rfl

@[simp] theorem Channel.emit_firstAmp (ch : Channel) (w : Word) :
    (ch.emit w).firstAmp = ch.firstAmp := rfl

@[simp] theorem Channel.emit_symCount (ch : Channel) (w : Word) :
    (ch.emit w).symCount = ch.symCount := rfl

@[simp] theorem Channel.emit_cfg (ch : Channel) (w : Word) :
    (ch.emit w).cfg = ch.cfg := rfl

@[simp] theorem Channel.emit_idx (ch : Channel) (w : Word) :
    (ch.emit w).idx = ch.idx := rfl

@[simp] theorem Channel.emit_r1 (ch : Channel) (w : Word) :
    (ch.emit w).r1 = ch.r1 := rfl

@[simp] theorem Channel.emit_r2 (ch : Channel) (w : Word) :
    (ch.emit w).r2 = ch.r2 := rfl

@[simp] theorem Channel.emit_stepSize (ch : Channel) (w : Word) :
    (ch.emit w).stepSize = ch.stepSize := rfl

@[simp] theorem Channel.emit_lws (ch : Channel) (w : Word) :
    (ch.emit w).lws = ch.lws := rfl

@[simp] theorem Channel.emit_xlen (ch : Channel) (w : Word) :
    (ch.emit w).xlen = ch.xlen := rfl

@[simp] theorem Channel.emit_run (ch : Channel) (w : Word) :
    (ch.emit w).run = ch.run := rfl

@[simp] theorem Channel.emit_cmdQ (ch : Channel) (w : Word) :
    (ch.emit w).cmdQ = ch.cmdQ := rfl

@[simp] theorem Channel.emit_outQ (ch : Channel) (w : Word) :
    (ch.emit w).outQ = ch.outQ ++ [w] := rfl

@[simp] theorem Channel.emit_emitted (ch : Channel) (w : Word) :
    (ch.emit w).emitted = ch.emitted ++ [w] := rfl

@[simp] theorem Channel.emitAll_state (ch : Channel) (ws : List Word) :
    (ch.emitAll ws).state = ch.state := rfl

@[simp] theorem Channel.emitAll_done (ch : Channel) (ws : List Word) :
    (ch.emitAll ws).done = ch.done := rfl

@[simp] theorem Channel.emitAll_err (ch : Channel) (ws : List Word) :
    (ch.emitAll ws).err = ch.err := rfl

@[simp] theorem Channel.emitAll_firstAmp (ch : Channel) (ws : List Word) :
    (ch.emitAll ws).firstAmp = ch.firstAmp := rfl

@[simp] theorem Channel.emitAll_symCount (ch : Channel) (ws : List Word) :
    (ch.emitAll ws).symCount = ch.symCount := rfl

@[simp] theorem Channel.emitAll_cfg (ch : Channel) (ws : List Word) :
    (ch.emitAll ws).cfg = ch.cfg := rfl

@[simp] theorem Channel.emitAll_idx (ch : Channel) (ws : List Word) :
    (ch.emitAll ws).idx = ch.idx := rfl

@[simp] theorem Channel.emitAll_r1 (ch : Channel) (ws : List Word) :
    (ch.emitAll ws).r1 = ch.r1 := rfl

@[simp] theorem Channel.emitAll_r2 (ch : Channel) (ws : List Word) :
    (ch.emitAll ws).r2 = ch.r2 := rfl

@[simp] theorem Channel.emitAll_stepSize (ch : Channel) (ws : List Word) :
    (ch.emitAll ws).stepSize = ch.stepSize := rfl

@[simp] theorem Channel.emitAll_lws (ch : Channel) (ws : List Word) :
    (ch.emitAll ws).lws = ch.lws := rfl

@[simp] theorem Channel.emitAll_xlen (ch : Channel) (ws : List Word) :
    (ch.emitAll ws).xlen = ch.xlen := rfl

@[simp] theorem Channel.emitAll_run (ch : Channel) (ws : List Word) :
    (ch.emitAll ws).run = ch.run := rfl

@[simp] theorem Channel.emitAll_cmdQ (ch : Channel) (ws : List Word) :
    (ch.emitAll ws).cmdQ = ch.cmdQ := rfl

@[simp] theorem Channel.emitAll_outQ (ch : Channel) (ws : List Word) :
    (ch.emitAll ws).outQ = ch.outQ ++ ws := rfl

@[simp] theorem Channel.emitAll_emitted (ch : Channel) (ws : List Word) :
    (ch.emitAll ws).emitted = ch.emitted ++ ws := rfl

@[simp] theorem Channel.enterFault_state (ch : Channel) (code : ErrCode) :
    (ch.enterFault code).state = .fault := rfl

@[simp] theorem Channel.enterFault_done (ch : Channel) (code : ErrCode) :
    (ch.enterFault code).done = ch.done := rfl

@[simp] theorem Channel.enterFault_err (ch : Channel) (code : ErrCode) :
    (ch.enterFault code).err = code := rfl

@[simp] theorem Channel.enterFault_firstAmp (ch : Channel) (code : ErrCode) :
    (ch.enterFault code).firstAmp = ch.firstAmp := rfl

@[simp] theorem Channel.enterFault_symCount (ch : Channel) (code : ErrCode) :
    (ch.enterFault code).symCount = ch.symCount := rfl

@[simp] theorem Channel.enterFault_cfg (ch : Channel) (code : ErrCode) :
    (ch.enterFault code).cfg = ch.cfg := rfl

@[simp] theorem Channel.enterFault_idx (ch : Channel) (code : ErrCode) :
    (ch.enterFault code).idx = ch.idx := rfl

@[simp] theorem Channel.enterFault_r1 (ch : Channel) (code : ErrCode) :
    (ch.enterFault code).r1 = ch.r1 := rfl

@[simp] theorem Channel.enterFault_r2 (ch : Channel) (code : ErrCode) :
    (ch.enterFault code).r2 = ch.r2 := rfl

@[simp] theorem Channel.enterFault_stepSize (ch : Channel) (code : ErrCode) :
    (ch.enterFault code).stepSize = ch.stepSize := rfl

@[simp] theorem Channel.enterFault_lws (ch : Channel) (code : ErrCode) :
    (ch.enterFault code).lws = ch.lws := rfl

@[simp] theorem Channel.enterFault_xlen (ch : Channel) (code : ErrCode) :
    (ch.enterFault code).xlen = ch.xlen := rfl

@[simp] theorem Channel.enterFault_run (ch : Channel) (code : ErrCode) :
    (ch.enterFault code).run = ch.run := rfl

@[simp] theorem Channel.enterFault_cmdQ (ch : Channel) (code : ErrCode) :
    (ch.enterFault code).cmdQ = ch.cmdQ := rfl

@[simp] theorem Channel.enterFault_outQ (ch : Channel) (code : ErrCode) :
    (ch.enterFault code).outQ = ch.outQ := rfl

@[simp] theorem Channel.enterFault_emitted (ch : Channel) (code : ErrCode) :
    (ch.enterFault code).emitted = ch.emitted := rfl

@[simp] theorem Channel.abortPass_state (ch : Channel) :
    (ch.abortPass).state = .idle := rfl

@[simp] theorem Channel.abortPass_done (ch : Channel) :
    (ch.abortPass).done = false := rfl

@[simp] theorem Channel.abortPass_err (ch : Channel) :
    (ch.abortPass).err = .none := rfl

@[simp] theorem Channel.abortPass_firstAmp (ch : Channel) :
    (ch.abortPass).firstAmp = ch.firstAmp := rfl

@[simp] theorem Channel.abortPass_symCount (ch : Channel) :
    (ch.abortPass).symCount = ch.symCount := rfl

@[simp] theorem Channel.abortPass_cfg (ch : Channel) :
    (ch.abortPass).cfg = ch.cfg := rfl

@[simp] theorem Channel.abortPass_idx (ch : Channel) :
    (ch.abortPass).idx = ch.idx := rfl

@[simp] theorem Channel.abortPass_r1 (ch : Channel) :
    (ch.abortPass).r1 = ch.r1 := rfl

@[simp] theorem Channel.abortPass_r2 (ch : Channel) :
    (ch.abortPass).r2 = ch.r2 := rfl

@[simp] theorem Channel.abortPass_stepSize (ch : Channel) :
    (ch.abortPass).stepSize = ch.stepSize := rfl

@[simp] theorem Channel.abortPass_lws (ch : Channel) :
    (ch.abortPass).lws = ch.lws := rfl

@[simp] theorem Channel.abortPass_xlen (ch : Channel) :
    (ch.abortPass).xlen = ch.xlen := rfl

@[simp] theorem Channel.abortPass_run (ch : Channel) :
    (ch.abortPass).run = ch.run := rfl

@[simp] theorem Channel.abortPass_cmdQ (ch : Channel) :
    (ch.abortPass).cmdQ = ch.cmdQ := rfl

@[simp] theorem Channel.abortPass_outQ (ch : Channel) :
    (ch.abortPass).outQ = [] := rfl

@[simp] theorem Channel.abortPass_emitted (ch : Channel) :
    (ch.abortPass).emitted = ch.emitted := rfl

@[simp] theorem Channel.initPass_state (ch : Channel) (c : PassConfig) :
    (ch.initPass c).state = ch.state := rfl

@[simp] theorem Channel.initPass_done (ch : Channel) (c : PassConfig) :
    (ch.initPass c).done = ch.done := rfl

@[simp] theorem Channel.initPass_err (ch : Channel) (c : PassConfig) :
    (ch.initPass c).err = ch.err := rfl

@[simp] theorem Channel.initPass_firstAmp (ch : Channel) (c : PassConfig) :
    (ch.initPass c).firstAmp = ch.firstAmp := rfl

@[simp] theorem Channel.initPass_symCount (ch : Channel) (c : PassConfig) :
    (ch.initPass c).symCount = 0 := rfl

@[simp] theorem Channel.initPass_cfg (ch : Channel) (c : PassConfig) :
    (ch.initPass c).cfg = c := rfl

@[simp] theorem Channel.initPass_idx (ch : Channel) (c : PassConfig) :
    (ch.initPass c).idx = 0 := rfl

@[simp] theorem Channel.initPass_r1 (ch : Channel) (c : PassConfig) :
    (ch.initPass c).r1 = 0 := rfl

@[simp] theorem Channel.initPass_r2 (ch : Channel) (c : PassConfig) :
    (ch.initPass c).r2 = 0 := rfl

@[simp] theorem Channel.initPass_stepSize (ch : Channel) (c : PassConfig) :
    (ch.initPass c).stepSize = c.stepMax := rfl

@[simp] theorem Channel.initPass_lws (ch : Channel) (c : PassConfig) :
    (ch.initPass c).lws = false := rfl

@[simp] theorem Channel.initPass_xlen (ch : Channel) (c : PassConfig) :
    (ch.initPass c).xlen = 8 := rfl

@[simp] theorem Channel.initPass_run (ch : Channel) (c : PassConfig) :
    (ch.initPass c).run = 0 := rfl

@[simp] theorem Channel.initPass_cmdQ (ch : Channel) (c : PassConfig) :
    (ch.initPass c).cmdQ = ch.cmdQ := rfl

@[simp] theorem Channel.initPass_outQ (ch : Channel) (c : PassConfig) :
    (ch.initPass c).outQ = ch.outQ := rfl

@[simp] theorem Channel.initPass_emitted (ch : Channel) (c : PassConfig) :
    (ch.initPass c).emitted = ch.emitted := rfl

@[simp] theorem Channel.emitSym_state (ch : Channel) (y : Byte) :
    (ch.emitSym y).state = ch.state := rfl

@[simp] theorem Channel.emitSym_done (ch : Channel) (y : Byte) :
    (ch.emitSym y).done = ch.done := rfl

@[simp] theorem Channel.emitSym_err (ch : Channel) (y : Byte) :
    (ch.emitSym y).err = ch.err := rfl

@[simp] theorem Channel.emitSym_firstAmp (ch : Channel) (y : Byte) :
    (ch.emitSym y).firstAmp = ch.firstAmp := rfl

@[simp] theorem Channel.emitSym_symCount (ch : Channel) (y : Byte) :
    (ch.emitSym y).symCount = ch.symCount + 1 := rfl

@[simp] theorem Channel.emitSym_cfg (ch : Channel) (y : Byte) :
    (ch.emitSym y).cfg = ch.cfg := rfl

@[simp] theorem Channel.emitSym_idx (ch : Channel) (y : Byte) :
    (ch.emitSym y).idx = ch.idx := rfl

@[simp] theorem Channel.emitSym_r1 (ch : Channel) (y : Byte) :
    (ch.emitSym y).r1 = ch.r1 := rfl

@[simp] theorem Channel.emitSym_r2 (ch : Channel) (y : Byte) :
    (ch.emitSym y).r2 = ch.r2 := rfl

@[simp] theorem Channel.emitSym_stepSize (ch : Channel) (y : Byte) :
    (ch.emitSym y).stepSize = ch.stepSize := rfl

@[simp] theorem Channel.emitSym_lws (ch : Channel) (y : Byte) :
    (ch.emitSym y).lws = ch.lws := rfl

@[simp] theorem Channel.emitSym_xlen (ch : Channel) (y : Byte) :
    (ch.emitSym y).xlen = ch.xlen := rfl

@[simp] theorem Channel.emitSym_run (ch : Channel) (y : Byte) :
    (ch.emitSym y).run = ch.run := rfl

@[simp] theorem Channel.emitSym_cmdQ (ch : Channel) (y : Byte) :
    (ch.emitSym y).cmdQ = ch.cmdQ := rfl

@[simp] theorem Channel.emitSym_outQ (ch : Channel) (y : Byte) :
    (ch.emitSym y).outQ = ch.outQ ++ [symWord y] := rfl

@[simp] theorem Channel.emitSym_emitted (ch : Channel) (y : Byte) :
    (ch.emitSym y).emitted = ch.emitted ++ [symWord y] := rfl

@[simp] theorem Channel.emitCenters_state (ch : Channel) (n : Nat) :
    (ch.emitCenters n).state = ch.state := rfl

@[simp] theorem Channel.emitCenters_done (ch : Channel) (n : Nat) :
    (ch.emitCenters n).done = ch.done := rfl

@[simp] theorem Channel.emitCenters_err (ch : Channel) (n : Nat) :
    (ch.emitCenters n).err = ch.err := rfl

@[simp] theorem Channel.emitCenters_firstAmp (ch : Channel) (n : Nat) :
    (ch.emitCenters n).firstAmp = ch.firstAmp := rfl

@[simp] theorem Channel.emitCenters_symCount (ch : Channel) (n : Nat) :
    (ch.emitCenters n).symCount = ch.symCount + BitVec.ofNat 32 n := rfl

@[simp] theorem Channel.emitCenters_cfg (ch : Channel) (n : Nat) :
    (ch.emitCenters n).cfg = ch.cfg := rfl

@[simp] theorem Channel.emitCenters_idx (ch : Channel) (n : Nat) :
    (ch.emitCenters n).idx = ch.idx := rfl

@[simp] theorem Channel.emitCenters_r1 (ch : Channel) (n : Nat) :
    (ch.emitCenters n).r1 = ch.r1 := rfl

@[simp] theorem Channel.emitCenters_r2 (ch : Channel) (n : Nat) :
    (ch.emitCenters n).r2 = ch.r2 := rfl

@[simp] theorem Channel.emitCenters_stepSize (ch : Channel) (n : Nat) :
    (ch.emitCenters n).stepSize = ch.stepSize := rfl

@[simp] theorem Channel.emitCenters_lws (ch : Channel) (n : Nat) :
    (ch.emitCenters n).lws = ch.lws := rfl

@[simp] theorem Channel.emitCenters_xlen (ch : Channel) (n : Nat) :
    (ch.emitCenters n).xlen = ch.xlen := rfl

@[simp] theorem Channel.emitCenters_run (ch : Channel) (n : Nat) :
    (ch.emitCenters n).run = ch.run := rfl

@[simp] theorem Channel.emitCenters_cmdQ (ch : Channel) (n : Nat) :
    (ch.emitCenters n).cmdQ = ch.cmdQ := rfl

@[simp] theorem Channel.emitCenters_outQ (ch : Channel) (n : Nat) :
    (ch.emitCenters n).outQ = ch.outQ ++ List.replicate n (symWord 0) := rfl

@[simp] theorem Channel.emitCenters_emitted (ch : Channel) (n : Nat) :
    (ch.emitCenters n).emitted = ch.emitted ++ List.replicate n (symWord 0) := rfl

@[simp] theorem Channel.commit_state (ch : Channel) (recon : Half) :
    (ch.commit recon).state = ch.state := rfl

@[simp] theorem Channel.commit_done (ch : Channel) (recon : Half) :
    (ch.commit recon).done = ch.done := rfl

@[simp] theorem Channel.commit_err (ch : Channel) (recon : Half) :
    (ch.commit recon).err = ch.err := rfl

@[simp] theorem Channel.commit_firstAmp (ch : Channel) (recon : Half) :
    (ch.commit recon).firstAmp = ch.firstAmp := rfl

@[simp] theorem Channel.commit_symCount (ch : Channel) (recon : Half) :
    (ch.commit recon).symCount = ch.symCount := rfl

@[simp] theorem Channel.commit_cfg (ch : Channel) (recon : Half) :
    (ch.commit recon).cfg = ch.cfg := rfl

@[simp] theorem Channel.commit_idx (ch : Channel) (recon : Half) :
    (ch.commit recon).idx = ch.idx + 1 := rfl

@[simp] theorem Channel.commit_r1 (ch : Channel) (recon : Half) :
    (ch.commit recon).r1 = recon := rfl

@[simp] theorem Channel.commit_r2 (ch : Channel) (recon : Half) :
    (ch.commit recon).r2 = ch.r1 := rfl

@[simp] theorem Channel.commit_stepSize (ch : Channel) (recon : Half) :
    (ch.commit recon).stepSize = ch.stepSize := rfl

@[simp] theorem Channel.commit_lws (ch : Channel) (recon : Half) :
    (ch.commit recon).lws = ch.lws := rfl

@[simp] theorem Channel.commit_xlen (ch : Channel) (recon : Half) :
    (ch.commit recon).xlen = ch.xlen := rfl

@[simp] theorem Channel.commit_run (ch : Channel) (recon : Half) :
    (ch.commit recon).run = ch.run := rfl

@[simp] theorem Channel.commit_cmdQ (ch : Channel) (recon : Half) :
    (ch.commit recon).cmdQ = ch.cmdQ := rfl

@[simp] theorem Channel.commit_outQ (ch : Channel) (recon : Half) :
    (ch.commit recon).outQ = ch.outQ := rfl

@[simp] theorem Channel.commit_emitted (ch : Channel) (recon : Half) :
    (ch.commit recon).emitted = ch.emitted := rfl

@[simp] theorem Channel.updateStep_state (ch : Channel) (level : Int) :
    (ch.updateStep level).state = ch.state := rfl

@[simp] theorem Channel.updateStep_done (ch : Channel) (level : Int) :
    (ch.updateStep level).done = ch.done := rfl

@[simp] theorem Channel.updateStep_err (ch : Channel) (level : Int) :
    (ch.updateStep level).err = ch.err := rfl

@[simp] theorem Channel.updateStep_firstAmp (ch : Channel) (level : Int) :
    (ch.updateStep level).firstAmp = ch.firstAmp := rfl

@[simp] theorem Channel.updateStep_symCount (ch : Channel) (level : Int) :
    (ch.updateStep level).symCount = ch.symCount := rfl

@[simp] theorem Channel.updateStep_cfg (ch : Channel) (level : Int) :
    (ch.updateStep level).cfg = ch.cfg := rfl

@[simp] theorem Channel.updateStep_idx (ch : Channel) (level : Int) :
    (ch.updateStep level).idx = ch.idx := rfl

@[simp] theorem Channel.updateStep_r1 (ch : Channel) (level : Int) :
    (ch.updateStep level).r1 = ch.r1 := rfl

@[simp] theorem Channel.updateStep_r2 (ch : Channel) (level : Int) :
    (ch.updateStep level).r2 = ch.r2 := rfl

@[simp] theorem Channel.updateStep_lws (ch : Channel) (level : Int) :
    (ch.updateStep level).lws = isSmall ch.cfg level := rfl

@[simp] theorem Channel.updateStep_xlen (ch : Channel) (level : Int) :
    (ch.updateStep level).xlen = ch.xlen := rfl

@[simp] theorem Channel.updateStep_run (ch : Channel) (level : Int) :
    (ch.updateStep level).run = ch.run := rfl

@[simp] theorem Channel.updateStep_cmdQ (ch : Channel) (level : Int) :
    (ch.updateStep level).cmdQ = ch.cmdQ := rfl

@[simp] theorem Channel.updateStep_outQ (ch : Channel) (level : Int) :
    (ch.updateStep level).outQ = ch.outQ := rfl

@[simp] theorem Channel.updateStep_emitted (ch : Channel) (level : Int) :
    (ch.updateStep level).emitted = ch.emitted := rfl

@[simp] theorem Channel.advance_state (ch : Channel) (p : Params) (hop0 level : Int) :
    (ch.advance p hop0 level).state = ch.state := rfl

@[simp] theorem Channel.advance_done (ch : Channel) (p : Params) (hop0 level : Int) :
    (ch.advance p hop0 level).done = ch.done := rfl

@[simp] theorem Channel.advance_err (ch : Channel) (p : Params) (hop0 level : Int) :
    (ch.advance p hop0 level).err = ch.err := rfl

@[simp] theorem Channel.advance_firstAmp (ch : Channel) (p : Params) (hop0 level : Int) :
    (ch.advance p hop0 level).firstAmp = ch.firstAmp := rfl

@[simp] theorem Channel.advance_symCount (ch : Channel) (p : Params) (hop0 level : Int) :
    (ch.advance p hop0 level).symCount = ch.symCount := rfl

@[simp] theorem Channel.advance_cfg (ch : Channel) (p : Params) (hop0 level : Int) :
    (ch.advance p hop0 level).cfg = ch.cfg := rfl

@[simp] theorem Channel.advance_idx (ch : Channel) (p : Params) (hop0 level : Int) :
    (ch.advance p hop0 level).idx = ch.idx + 1 := rfl

@[simp] theorem Channel.advance_r1 (ch : Channel) (p : Params) (hop0 level : Int) :
    (ch.advance p hop0 level).r1 = reconOf p ch hop0 level := rfl

@[simp] theorem Channel.advance_r2 (ch : Channel) (p : Params) (hop0 level : Int) :
    (ch.advance p hop0 level).r2 = ch.r1 := rfl

@[simp] theorem Channel.advance_stepSize (ch : Channel) (p : Params) (hop0 level : Int) :
    (ch.advance p hop0 level).stepSize = (ch.updateStep level).stepSize := rfl

@[simp] theorem Channel.advance_lws (ch : Channel) (p : Params) (hop0 level : Int) :
    (ch.advance p hop0 level).lws = isSmall ch.cfg level := rfl

@[simp] theorem Channel.advance_xlen (ch : Channel) (p : Params) (hop0 level : Int) :
    (ch.advance p hop0 level).xlen = ch.xlen := rfl

@[simp] theorem Channel.advance_run (ch : Channel) (p : Params) (hop0 level : Int) :
    (ch.advance p hop0 level).run = ch.run := rfl

@[simp] theorem Channel.advance_cmdQ (ch : Channel) (p : Params) (hop0 level : Int) :
    (ch.advance p hop0 level).cmdQ = ch.cmdQ := rfl

@[simp] theorem Channel.advance_outQ (ch : Channel) (p : Params) (hop0 level : Int) :
    (ch.advance p hop0 level).outQ = ch.outQ := rfl

@[simp] theorem Channel.advance_emitted (ch : Channel) (p : Params) (hop0 level : Int) :
    (ch.advance p hop0 level).emitted = ch.emitted := rfl

@[simp] theorem Channel.recordSeed_state (ch : Channel) (o : Half) :
    (ch.recordSeed o).state = ch.state := rfl

@[simp] theorem Channel.recordSeed_done (ch : Channel) (o : Half) :
    (ch.recordSeed o).done = ch.done := rfl

@[simp] theorem Channel.recordSeed_err (ch : Channel) (o : Half) :
    (ch.recordSeed o).err = ch.err := rfl

@[simp] theorem Channel.recordSeed_firstAmp (ch : Channel) (o : Half) :
    (ch.recordSeed o).firstAmp = if ch.idx = 0 then o else ch.firstAmp := rfl

@[simp] theorem Channel.recordSeed_symCount (ch : Channel) (o : Half) :
    (ch.recordSeed o).symCount = ch.symCount := rfl

@[simp] theorem Channel.recordSeed_cfg (ch : Channel) (o : Half) :
    (ch.recordSeed o).cfg = ch.cfg := rfl

@[simp] theorem Channel.recordSeed_idx (ch : Channel) (o : Half) :
    (ch.recordSeed o).idx = ch.idx := rfl

@[simp] theorem Channel.recordSeed_r1 (ch : Channel) (o : Half) :
    (ch.recordSeed o).r1 = ch.r1 := rfl

@[simp] theorem Channel.recordSeed_r2 (ch : Channel) (o : Half) :
    (ch.recordSeed o).r2 = ch.r2 := rfl

@[simp] theorem Channel.recordSeed_stepSize (ch : Channel) (o : Half) :
    (ch.recordSeed o).stepSize = ch.stepSize := rfl

@[simp] theorem Channel.recordSeed_lws (ch : Channel) (o : Half) :
    (ch.recordSeed o).lws = ch.lws := rfl

@[simp] theorem Channel.recordSeed_xlen (ch : Channel) (o : Half) :
    (ch.recordSeed o).xlen = ch.xlen := rfl

@[simp] theorem Channel.recordSeed_run (ch : Channel) (o : Half) :
    (ch.recordSeed o).run = ch.run := rfl

@[simp] theorem Channel.recordSeed_cmdQ (ch : Channel) (o : Half) :
    (ch.recordSeed o).cmdQ = ch.cmdQ := rfl

@[simp] theorem Channel.recordSeed_outQ (ch : Channel) (o : Half) :
    (ch.recordSeed o).outQ = ch.outQ := rfl

@[simp] theorem Channel.recordSeed_emitted (ch : Channel) (o : Half) :
    (ch.recordSeed o).emitted = ch.emitted := rfl

@[simp] theorem Channel.noteWrite_state (ch : Channel) (r : CfgReg) (old : Word) :
    (ch.noteWrite r old).state = ch.state := rfl

@[simp] theorem Channel.noteWrite_done (ch : Channel) (r : CfgReg) (old : Word) :
    (ch.noteWrite r old).done = ch.done := rfl

@[simp] theorem Channel.noteWrite_err (ch : Channel) (r : CfgReg) (old : Word) :
    (ch.noteWrite r old).err = ch.err := rfl

@[simp] theorem Channel.noteWrite_firstAmp (ch : Channel) (r : CfgReg) (old : Word) :
    (ch.noteWrite r old).firstAmp = ch.firstAmp := rfl

@[simp] theorem Channel.noteWrite_symCount (ch : Channel) (r : CfgReg) (old : Word) :
    (ch.noteWrite r old).symCount = ch.symCount := rfl

@[simp] theorem Channel.noteWrite_cfg (ch : Channel) (r : CfgReg) (old : Word) :
    (ch.noteWrite r old).cfg = ch.cfg := rfl

@[simp] theorem Channel.noteWrite_idx (ch : Channel) (r : CfgReg) (old : Word) :
    (ch.noteWrite r old).idx = ch.idx := rfl

@[simp] theorem Channel.noteWrite_r1 (ch : Channel) (r : CfgReg) (old : Word) :
    (ch.noteWrite r old).r1 = ch.r1 := rfl

@[simp] theorem Channel.noteWrite_r2 (ch : Channel) (r : CfgReg) (old : Word) :
    (ch.noteWrite r old).r2 = ch.r2 := rfl

@[simp] theorem Channel.noteWrite_stepSize (ch : Channel) (r : CfgReg) (old : Word) :
    (ch.noteWrite r old).stepSize = ch.stepSize := rfl

@[simp] theorem Channel.noteWrite_lws (ch : Channel) (r : CfgReg) (old : Word) :
    (ch.noteWrite r old).lws = ch.lws := rfl

@[simp] theorem Channel.noteWrite_xlen (ch : Channel) (r : CfgReg) (old : Word) :
    (ch.noteWrite r old).xlen = ch.xlen := rfl

@[simp] theorem Channel.noteWrite_run (ch : Channel) (r : CfgReg) (old : Word) :
    (ch.noteWrite r old).run = ch.run := rfl

@[simp] theorem Channel.noteWrite_cmdQ (ch : Channel) (r : CfgReg) (old : Word) :
    (ch.noteWrite r old).cmdQ = ch.cmdQ.map (Queued.noteWrite r old) := rfl

@[simp] theorem Channel.noteWrite_outQ (ch : Channel) (r : CfgReg) (old : Word) :
    (ch.noteWrite r old).outQ = ch.outQ := rfl

@[simp] theorem Channel.noteWrite_emitted (ch : Channel) (r : CfgReg) (old : Word) :
    (ch.noteWrite r old).emitted = ch.emitted := rfl

@[simp] theorem Channel.wipe_state (ch : Channel) :
    (ch.wipe).state = .idle := rfl

@[simp] theorem Channel.wipe_done (ch : Channel) :
    (ch.wipe).done = false := rfl

@[simp] theorem Channel.wipe_err (ch : Channel) :
    (ch.wipe).err = .none := rfl

@[simp] theorem Channel.wipe_firstAmp (ch : Channel) :
    (ch.wipe).firstAmp = 0 := rfl

@[simp] theorem Channel.wipe_symCount (ch : Channel) :
    (ch.wipe).symCount = 0 := rfl

@[simp] theorem Channel.wipe_cfg (ch : Channel) :
    (ch.wipe).cfg = PassConfig.reset := rfl

@[simp] theorem Channel.wipe_idx (ch : Channel) :
    (ch.wipe).idx = 0 := rfl

@[simp] theorem Channel.wipe_r1 (ch : Channel) :
    (ch.wipe).r1 = 0 := rfl

@[simp] theorem Channel.wipe_r2 (ch : Channel) :
    (ch.wipe).r2 = 0 := rfl

@[simp] theorem Channel.wipe_stepSize (ch : Channel) :
    (ch.wipe).stepSize = 0 := rfl

@[simp] theorem Channel.wipe_lws (ch : Channel) :
    (ch.wipe).lws = false := rfl

@[simp] theorem Channel.wipe_xlen (ch : Channel) :
    (ch.wipe).xlen = 8 := rfl

@[simp] theorem Channel.wipe_run (ch : Channel) :
    (ch.wipe).run = 0 := rfl

@[simp] theorem Channel.wipe_cmdQ (ch : Channel) :
    (ch.wipe).cmdQ = [] := rfl

@[simp] theorem Channel.wipe_outQ (ch : Channel) :
    (ch.wipe).outQ = [] := rfl

@[simp] theorem Channel.wipe_emitted (ch : Channel) :
    (ch.wipe).emitted = ch.emitted := rfl

end Sys2Proof.Machine
end

