-- ==== Sys2Proof/Laws/Datapath.lean ====
section
/-! SUPPORT. What the predictor datapath reads and writes, said once: the whole channel after a
quantizer and after a reconstructor step (41_quantizer.md R132, R134, R135; 42_reconstructor.md
R146), and the channel fields on which each function depends. -/

namespace Sys2Proof.Machine

/-! ### What each function reads -/

theorem predict_congr {a b : Channel} {seed seed' : Int} (hc : a.cfg = b.cfg) (hi : a.idx = b.idx)
    (h1 : a.r1 = b.r1) (h2 : a.r2 = b.r2) (hs : a.idx = 0 → seed = seed') :
    predict a seed = predict b seed' := by
  unfold predict
  rw [hc, h1, h2, ← hi]
  by_cases h : a.idx = 0
  · rw [if_pos h, if_pos h, hs h]
  · rw [if_neg h, if_neg h]

theorem cand_congr {a b : Channel} (p : Params) (hop0u level : Int) (hc : a.cfg = b.cfg)
    (hs : a.stepSize = b.stepSize) : cand p a hop0u level = cand p b hop0u level := by
  unfold cand
  rw [hc, hs]

theorem reconOf_congr {a b : Channel} (p : Params) (hop0 level : Int) (hc : a.cfg = b.cfg)
    (hs : a.stepSize = b.stepSize) : reconOf p a hop0 level = reconOf p b hop0 level := by
  unfold reconOf
  rw [cand_congr p _ level hc hs, hc]

@[simp] theorem reconOf_recordSeed (p : Params) (ch : Channel) (o : Half) (hop0 level : Int) :
    reconOf p (ch.recordSeed o) hop0 level = reconOf p ch hop0 level := rfl

/-! ### What each step writes -/

/-- R132: the step size after a level. -/
def nextStep (ch : Channel) (level : Int) : Half := (ch.updateStep level).stepSize

theorem Channel.advance_eq (ch : Channel) (p : Params) (hop0 level : Int) :
    ch.advance p hop0 level =
      { ch with stepSize := nextStep ch level, lws := isSmall ch.cfg level, r2 := ch.r1,
                r1 := reconOf p ch hop0 level, idx := ch.idx + 1 } := rfl

/-- The whole effect of `QSTEP(o)` on the channel. -/
theorem quantStep_eq (p : Params) (ch : Channel) (o : Half) :
    quantStep p ch o =
      { ch with firstAmp := if ch.idx = 0 then o else ch.firstAmp,
                stepSize := nextStep ch (quantLevel p ch o),
                lws := isSmall ch.cfg (quantLevel p ch o), r2 := ch.r1,
                r1 := (quantOut p ch o).2, idx := ch.idx + 1 } := rfl

/-- The whole effect of `RSTEP(h)` on the channel. -/
theorem reconStep_eq (p : Params) (ch : Channel) (h : Nibble) :
    reconStep p ch h =
      { ch with stepSize := nextStep ch (levelOfHop ch.cfg h),
                lws := isSmall ch.cfg (levelOfHop ch.cfg h), r2 := ch.r1,
                r1 := reconSample p ch h, idx := ch.idx + 1 } := rfl

/-- The clamp lies in its interval, when there is one (R119, R127). -/
theorem clampTo_bounds {lo hi : Int} (v : Int) (h : lo ≤ hi) :
    lo ≤ clampTo lo hi v ∧ clampTo lo hi v ≤ hi := by
  unfold clampTo
  omega

/-! ### The selection -/

/-- The scan answers a level between the one it starts from and the last it may visit (R128). -/
theorem scanLevels_range (tie : Tie) (err : Nat → Nat) (left : Nat) :
    ∀ k best bestErr, best < k →
      best ≤ scanLevels tie err left k best bestErr ∧
        (scanLevels tie err left k best bestErr = best ∨
          scanLevels tie err left k best bestErr < k + left) := by
  induction left with
  | zero => exact fun k best bestErr _ => ⟨le_refl _, .inl rfl⟩
  | succ left ih =>
    intro k best bestErr hb
    unfold scanLevels
    split
    · rcases ih (k + 1) k (err k) (Nat.lt_succ_self k) with ⟨h1, h2 | h2⟩
      · exact ⟨by omega, .inr (by omega)⟩
      · exact ⟨by omega, .inr (by omega)⟩
    · exact ⟨le_refl _, .inl rfl⟩

/-- The selected level is no further out than `K` (R86, R128). -/
theorem selectLevel_bound (p : Params) (ch : Channel) (o hop0 : Int) :
    (selectLevel p ch o hop0).natAbs ≤ kOf ch.cfg := by
  unfold selectLevel
  extract_lets ou hop0u dir err
  have h := (scanLevels_range (tieOf p.outerTie (nlOf ch.cfg)) err (kOf ch.cfg) 1 0 (err 0)
    Nat.zero_lt_one).2
  generalize scanLevels (tieOf p.outerTie (nlOf ch.cfg)) err (kOf ch.cfg) 1 0 (err 0) = n at h ⊢
  cases dir <;> simp only [Dir.sign] <;> omega

end Sys2Proof.Machine
end

