-- ==== Sys2Proof/Laws/Ops.lean ====
section
/-! SUPPORT. What each shared operation can do, said once: running a command, the commands, an
engine's step, the host's step, the machine's step. -/

namespace Sys2Proof.Machine

/-! ### Running a command on the active channel (60_exceptions.md R193, R194) -/

theorem onActive_in_fault {s : State} {f : Channel → Verdict}
    (h : (s.ch s.active).state = .fault) : onActive s f = .next s := by
  simp [onActive, h]

theorem onActive_of_done {s : State} {f : Channel → Verdict} {ch : Channel}
    (h : (s.ch s.active).state ≠ .fault) (hf : f (s.ch s.active) = .done ch) :
    onActive s f = .next (s.setCh s.active ch) := by
  simp [onActive, h, hf]

theorem onActive_of_raise {s : State} {f : Channel → Verdict} {code : ErrCode}
    (h : (s.ch s.active).state ≠ .fault) (hf : f (s.ch s.active) = .raise code) :
    onActive s f = .next (s.setCh s.active ((s.ch s.active).enterFault code)) := by
  simp [onActive, h, hf]

theorem onActive_of_refuse {s : State} {f : Channel → Verdict} {why : Refusal}
    (h : (s.ch s.active).state ≠ .fault) (hf : f (s.ch s.active) = .refuse why) :
    onActive s f = .refused why := by
  simp [onActive, h, hf]

/-- A command that answers a next state was discarded, or was done, or raised a fault. -/
theorem onActive_next {s t : State} {f : Channel → Verdict} (h : onActive s f = .next t) :
    ((s.ch s.active).state = .fault ∧ t = s) ∨
    ((s.ch s.active).state ≠ .fault ∧
      ((∃ ch, f (s.ch s.active) = .done ch ∧ t = s.setCh s.active ch) ∨
       (∃ code, f (s.ch s.active) = .raise code ∧
          t = s.setCh s.active ((s.ch s.active).enterFault code)))) := by
  unfold onActive at h
  by_cases hf : (s.ch s.active).state = .fault
  · exact .inl ⟨hf, by simpa [hf] using h.symm⟩
  · refine .inr ⟨hf, ?_⟩
    cases hv : f (s.ch s.active) with
    | done ch => exact .inl ⟨ch, rfl, by simpa [hf, hv] using h.symm⟩
    | raise code => exact .inr ⟨code, rfl, by simpa [hf, hv] using h.symm⟩
    | refuse why => simp [hf, hv] at h

/-- No command ends in a fault of the machine: a channel fault is a next state. -/
theorem onActive_not_fault {s : State} {f : Channel → Verdict} {r : Fault} :
    onActive s f ≠ .fault r := by
  unfold onActive
  by_cases hf : (s.ch s.active).state = .fault
  · simp [hf]
  · cases hv : f (s.ch s.active) <;> simp [hf, hv]

/-- A channel written after a START's draws were taken. -/
theorem State.tookLatch_setCh (s : State) (c : Chan) (ch : Channel) :
    s.tookLatch.setCh c ch = { s.setCh c ch with draws := s.draws + s.raced.length } := by
  cases c <;> rfl

/-! ### What one command is, as a verdict on its channel -/

/-- A command as a function of its channel, the parameters and the configuration a START would
latch. ABORT and NOP are the two that no state discards. -/
def verdictOf (p : Params) (latch : PassConfig) : Instr → Channel → Verdict
  | .nop _, ch => .done ch
  | .start mode, ch => startPass mode latch ch
  | .end_, ch => endPass ch
  | .abort _, ch => .done ch.abortPass
  | .enc o, ch => encOn p o ch
  | .qenc o, ch => qencOn p o ch
  | .senc h, ch => sencOn h ch
  | .dec y, ch => decOn p y ch
  | .qdec h, ch => qdecOn p h ch
  | .sdec y, ch => sdecOn y ch

/-- A command that answers a next state changes its own channel and the count of draws only: it was
discarded in FAULT, or its verdict was carried out. -/
theorem exec_next {i : Instr} {s t : State} (h : exec i s = .next t) :
    ∃ d, s.draws ≤ d ∧
      (((s.ch s.active).state = .fault ∧ t = { s with draws := d }) ∨
       (∃ ch, verdictOf s.params s.latched i (s.ch s.active) = .done ch ∧
          t = { s.setCh s.active ch with draws := d }) ∨
       ((s.ch s.active).state ≠ .fault ∧
          ∃ code, verdictOf s.params s.latched i (s.ch s.active) = .raise code ∧
            t = { s.setCh s.active ((s.ch s.active).enterFault code) with draws := d })) := by
  have key : ∀ f : Channel → Verdict, onActive s f = .next t →
      (∀ ch, f ch = verdictOf s.params s.latched i ch) →
      ∃ d, s.draws ≤ d ∧
      (((s.ch s.active).state = .fault ∧ t = { s with draws := d }) ∨
       (∃ ch, verdictOf s.params s.latched i (s.ch s.active) = .done ch ∧
          t = { s.setCh s.active ch with draws := d }) ∨
       ((s.ch s.active).state ≠ .fault ∧
          ∃ code, verdictOf s.params s.latched i (s.ch s.active) = .raise code ∧
            t = { s.setCh s.active ((s.ch s.active).enterFault code) with draws := d })) := by
    intro f hn hv
    refine ⟨s.draws, le_refl _, ?_⟩
    rcases onActive_next hn with ⟨hf, rfl⟩ | ⟨hf, ⟨ch, hd, rfl⟩ | ⟨code, hd, rfl⟩⟩
    · exact .inl ⟨hf, rfl⟩
    · exact .inr (.inl ⟨ch, by rw [← hv, hd], by cases s.active <;> rfl⟩)
    · exact .inr (.inr ⟨hf, code, by rw [← hv, hd], by cases s.active <;> rfl⟩)
  cases i with
  | nop hint =>
    have ht : t = s := by simpa [exec, execNop] using h.symm
    exact ⟨s.draws, le_refl _, .inr (.inl ⟨s.ch s.active, rfl, by subst ht; simp⟩)⟩
  | start mode =>
    have hs : onActive s.tookLatch (startPass mode s.latched) = .next t := h
    refine ⟨s.draws + s.raced.length, Nat.le_add_right _ _, ?_⟩
    rcases onActive_next hs with ⟨hf, rfl⟩ | ⟨hf, ⟨ch, hd, rfl⟩ | ⟨code, hd, rfl⟩⟩
    · exact .inl ⟨by simpa using hf, rfl⟩
    · exact .inr (.inl ⟨ch, by rw [State.ch_tookLatch] at hd; exact hd, State.tookLatch_setCh s _ ch⟩)
    · rw [State.ch_tookLatch] at hf hd ⊢
      exact .inr (.inr ⟨hf, code, hd, State.tookLatch_setCh s _ _⟩)
  | end_ => exact key _ h fun _ => rfl
  | abort ignored =>
    have ht : t = s.setCh s.active (s.ch s.active).abortPass := by
      simpa [exec, execAbort] using h.symm
    exact ⟨s.draws, le_refl _, .inr (.inl ⟨_, rfl, by subst ht; cases s.active <;> rfl⟩)⟩
  | enc o => exact key _ h fun _ => rfl
  | qenc o => exact key _ h fun _ => rfl
  | senc hp => exact key _ h fun _ => rfl
  | dec y => exact key _ h fun _ => rfl
  | qdec hp => exact key _ h fun _ => rfl
  | sdec y => exact key _ h fun _ => rfl

/-- No command ends in a fault of the machine. -/
theorem exec_not_fault (i : Instr) (s : State) (r : Fault) : exec i s ≠ .fault r := by
  cases i <;> first
    | exact onActive_not_fault
    | simp [exec, execNop, execAbort]

/-! ### An engine's step and the machine's step (20_memory.md R70, R73) -/

/-- An engine that answers a next state did nothing, or executed its oldest word whole. -/
theorem engineStep_next {s t : State} {c : Chan} (h : engineStep s c = .next t) :
    t = s ∨ ∃ q rest, (s.ch c).cmdQ = q :: rest ∧ s.present c = true ∧
      ((∃ i, decode q.word = .ok i ∧ exec i (s.taken c q rest) = .next t) ∨
       (∃ e, decode q.word = .error e ∧ execIllegal (s.taken c q rest) = .next t)) := by
  unfold engineStep at h
  cases hq : (s.ch c).cmdQ with
  | nil => exact .inl (by simpa [hq] using h.symm)
  | cons q rest =>
    by_cases hc : canRun s c = true
    · refine .inr ⟨q, rest, rfl, ?_, ?_⟩
      · simp only [canRun, Bool.and_eq_true] at hc
        exact hc.1.1
      · simp only [hq, hc, if_true, runWord] at h
        cases hd : decode q.word with
        | ok i => exact .inl ⟨i, rfl, by simpa [hd] using h⟩
        | error e => exact .inr ⟨e, rfl, by simpa [hd] using h⟩
    · exact .inl (by simpa [hq, hc] using h.symm)

/-- A host event that answers a next state is a read, a write or a reset. -/
theorem hostEvent_next {s t : State} {e : HostEvent} (h : hostEvent s e = .next t) :
    (∃ off, t = { (busRead s off).2 with readLog := s.readLog ++ [(busRead s off).1] }) ∨
    (∃ off v, t = busWrite s off v) ∨ t = s.resetBlock := by
  cases e with
  | read width addr =>
    cases ho : offsetOfAccess s width addr with
    | ok off => exact .inl ⟨off, by simpa [hostEvent, ho] using h.symm⟩
    | error why => simp [hostEvent, ho] at h
  | write width addr v =>
    cases ho : offsetOfAccess s width addr with
    | ok off => exact .inr (.inl ⟨off, v, by simpa [hostEvent, ho] using h.symm⟩)
    | error why => simp [hostEvent, ho] at h
  | hardReset => exact .inr (.inr (by simpa [hostEvent] using h.symm))

/-- A step that answers a next state is the step of one agent, in the state with the schedule and
the draws moved on, or no agent moved. -/
theorem step_next {s t : State} (h : step s = .next t) :
    t = s ∨ ∃ a sched d, agentStep { s with schedule := sched, draws := d } a = .next t := by
  unfold step machineStep at h
  cases hs : s.schedule with
  | cons a rest => exact .inr ⟨a, rest, s.draws, by simpa [hs] using h⟩
  | nil =>
    simp only [hs, freeStep] at h
    cases hm : movers s with
    | nil =>
      simp only [hm] at h
      by_cases hst : stalled s = true
      · simp [hst] at h
      · exact .inl (by simpa [hst] using h.symm)
    | cons a others =>
      cases others with
      | nil =>
        refine .inr ⟨a, s.schedule, s.draws, ?_⟩
        simpa [hm] using h
      | cons b others =>
        refine .inr ⟨chooseAgent a (b :: others) s.draws, s.schedule, s.draws + 1, ?_⟩
        simpa [hm, hs] using h

/-! ### The parameters of the instance (00_scope.md R8) -/

theorem exec_params {i : Instr} {s t : State} (h : exec i s = .next t) : t.params = s.params := by
  obtain ⟨d, -, ⟨-, rfl⟩ | ⟨ch, -, rfl⟩ | ⟨-, code, -, rfl⟩⟩ := exec_next h
  · rfl
  · cases s.active <;> rfl
  · cases s.active <;> rfl

theorem execIllegal_params {s t : State} (h : execIllegal s = .next t) : t.params = s.params := by
  rcases onActive_next h with ⟨-, rfl⟩ | ⟨-, ⟨ch, -, rfl⟩ | ⟨code, -, rfl⟩⟩
  · rfl
  · cases s.active <;> rfl
  · cases s.active <;> rfl

theorem busRead_params (s : State) (off : Nat) : (busRead s off).2.params = s.params := by
  unfold busRead
  cases regAt s.params.numChannels off with
  | chan c r => cases c <;> rfl
  | _ => rfl

theorem busWrite_params (s : State) (off : Nat) (v : Word) :
    (busWrite s off v).params = s.params := by
  unfold busWrite
  cases regAt s.params.numChannels off with
  | ctrl => simp only [regWrite]; split <;> rfl
  | chan c r => cases r <;> cases c <;> rfl
  | _ => rfl

/-- No step changes the parameters (R8). -/
theorem step_params {s t : State} (h : step s = .next t) : t.params = s.params := by
  rcases step_next h with rfl | ⟨a, sched, d, ha⟩
  · rfl
  cases a with
  | host =>
    simp only [agentStep, hostStep] at ha
    split at ha
    · cases ha; rfl
    · rcases hostEvent_next ha with ⟨off, rfl⟩ | ⟨off, v, rfl⟩ | rfl
      · exact busRead_params _ off
      · exact busWrite_params _ off v
      · rfl
  | engine c =>
    rcases engineStep_next ha with rfl | ⟨q, rest, -, -, ⟨i, -, hi⟩ | ⟨e, -, hi⟩⟩
    · rfl
    · rw [exec_params hi]; cases c <;> rfl
    · rw [execIllegal_params hi]; cases c <;> rfl

end Sys2Proof.Machine
end

