-- ==== Sys2Proof/Laws/PerInstr.lean ====
section
/-! SUPPORT. A statement for each constructor of `Instr`: its encoding lies in the row of the opcode
map that bears its mnemonic (30_encoding.md R83). -/

namespace Sys2Proof.Laws.EncodedRow

/-- The word of a command matches the row of the opcode map with its mnemonic. -/
def Statement (i : Instr) : Prop :=
  ∃ r ∈ opcodeMap, r.mnemonic = i.mnemonic ∧ r.matchesWord (encode i) = true

theorem nop (hint : BitVec 28) : Statement (.nop hint) := by
  refine ⟨⟨"NOP", 0x00000000, 0xF0000000⟩, by simp [opcodeMap], rfl, decide_eq_true ?_⟩
  apply BitVec.eq_of_getLsbD_eq
  intro i hi
  interval_cases i <;> simp [encode, place]

theorem start (mode : PassMode) : Statement (.start mode) :=
  ⟨⟨"START", 0x10000000, 0xFFFFFFFE⟩, by simp [opcodeMap], rfl, by cases mode <;> decide⟩

theorem end_ : Statement .end_ :=
  ⟨⟨"END", 0x20000000, 0xFFFFFFFF⟩, by simp [opcodeMap], rfl, by decide⟩

theorem abort (ignored : BitVec 28) : Statement (.abort ignored) := by
  refine ⟨⟨"ABORT", 0x30000000, 0xF0000000⟩, by simp [opcodeMap], rfl, decide_eq_true ?_⟩
  apply BitVec.eq_of_getLsbD_eq
  intro i hi
  interval_cases i <;> simp [encode, place]

theorem enc (sample : Half) : Statement (.enc sample) := by
  refine ⟨⟨"ENC", 0x40000000, 0xFFFF0000⟩, by simp [opcodeMap], rfl, decide_eq_true ?_⟩
  apply BitVec.eq_of_getLsbD_eq
  intro i hi
  interval_cases i <;> simp [encode, place]

theorem qenc (sample : Half) : Statement (.qenc sample) := by
  refine ⟨⟨"QENC", 0x50000000, 0xFFFF0000⟩, by simp [opcodeMap], rfl, decide_eq_true ?_⟩
  apply BitVec.eq_of_getLsbD_eq
  intro i hi
  interval_cases i <;> simp [encode, place]

theorem senc (hop : Nibble) : Statement (.senc hop) := by
  refine ⟨⟨"SENC", 0x60000000, 0xFFFFFFF0⟩, by simp [opcodeMap], rfl, decide_eq_true ?_⟩
  apply BitVec.eq_of_getLsbD_eq
  intro i hi
  interval_cases i <;> simp [encode, place]

theorem dec (sym : Byte) : Statement (.dec sym) := by
  refine ⟨⟨"DEC", 0x70000000, 0xFFFFFF00⟩, by simp [opcodeMap], rfl, decide_eq_true ?_⟩
  apply BitVec.eq_of_getLsbD_eq
  intro i hi
  interval_cases i <;> simp [encode, place]

theorem qdec (hop : Nibble) : Statement (.qdec hop) := by
  refine ⟨⟨"QDEC", 0x80000000, 0xFFFFFFF0⟩, by simp [opcodeMap], rfl, decide_eq_true ?_⟩
  apply BitVec.eq_of_getLsbD_eq
  intro i hi
  interval_cases i <;> simp [encode, place]

theorem sdec (sym : Byte) : Statement (.sdec sym) := by
  refine ⟨⟨"SDEC", 0x90000000, 0xFFFFFF00⟩, by simp [opcodeMap], rfl, decide_eq_true ?_⟩
  apply BitVec.eq_of_getLsbD_eq
  intro i hi
  interval_cases i <;> simp [encode, place]

end Sys2Proof.Laws.EncodedRow
end

