-- ==== Sys2Proof/Machine/Assembler.lean ====
section
/-! DEFINITION. The assembler and disassembler of the commands (30_encoding.md R94 to R96). Lines
are lists of characters, without the line break. The lexical details that R94 leaves open are the
model's (log entry 21). -/

namespace Sys2Proof.Machine

/-- A line up to its comment (R94). -/
def beforeComment (line : List Char) : List Char := line.takeWhile (· ≠ ';')

/-- A separator between words of a line (DESIGN CHOICE, log entry 21). -/
def isSeparator (c : Char) : Bool := c == ' ' || c == '\t' || c == ','

/-- The words of a line; `word` is the word being read, reversed. -/
def lineWords : List Char → (word : List Char) → List (List Char)
  | [], word => if word.isEmpty then [] else [word.reverse]
  | c :: rest, word =>
    if isSeparator c then
      if word.isEmpty then lineWords rest [] else word.reverse :: lineWords rest []
    else lineWords rest (c :: word)

/-- The value of a digit in a base up to 16. -/
def digitOf (base : Nat) (c : Char) : Option Nat :=
  let v := c.toNat
  let d :=
    if 48 ≤ v ∧ v ≤ 57 then v - 48
    else if 65 ≤ v ∧ v ≤ 70 then v - 55
    else if 97 ≤ v ∧ v ≤ 102 then v - 87
    else 16
  if d < base then some d else none

/-- The value of a string of digits, continuing from `acc`. -/
def digitsValue (base : Nat) : List Char → Nat → Option Nat
  | [], acc => some acc
  | c :: rest, acc => (digitOf base c).bind fun d => digitsValue base rest (acc * base + d)

/-- An unsigned number, decimal or `0x` hexadecimal. -/
def natOf : List Char → Option Nat
  | [] => none
  | ['0', 'x'] => none
  | '0' :: 'x' :: digits => digitsValue 16 digits 0
  | digits => digitsValue 10 digits 0

/-- A sample operand (R94): signed decimal -32768 to 32767, or a `0x` 16-bit pattern. -/
def sampleOf : List Char → Option Half
  | '0' :: 'x' :: digits =>
    (natOf ('0' :: 'x' :: digits)).bind fun v => if v < 2 ^ 16 then some (BitVec.ofNat 16 v) else none
  | ['-'] => none
  | '-' :: digits =>
    (digitsValue 10 digits 0).bind fun v => if v ≤ 2 ^ 15 then some (BitVec.ofInt 16 (-v)) else none
  | digits => (natOf digits).bind fun v => if v < 2 ^ 15 then some (BitVec.ofNat 16 v) else none

/-- A hop operand (R94): 0 to 14. -/
def hopOperand (w : List Char) : Option Nibble :=
  (natOf w).bind fun v => if v ≤ 14 then some (BitVec.ofNat 4 v) else none

/-- A symbol operand (R94): 0 to 255, or `X` for the meta-symbol. -/
def symOperand : List Char → Option Byte
  | ['X'] => some metaSym
  | w => (natOf w).bind fun v => if v ≤ 255 then some (BitVec.ofNat 8 v) else none

/-- A mode operand (R94). -/
def modeOperand : List Char → Option PassMode
  | ['e', 'n', 'c'] => some .enc
  | ['d', 'e', 'c'] => some .dec
  | _ => none

/-- A hint operand (R94): 28 bits. -/
def hintOperand (w : List Char) : Option (BitVec 28) :=
  (natOf w).bind fun v => if v < 2 ^ 28 then some (BitVec.ofNat 28 v) else none

/-- One operand, read by `read`. -/
def oneOperand {α : Type} (read : List Char → Option α) (make : α → List Instr) :
    List (List Char) → Option (List Instr)
  | [w] => (read w).map make
  | _ => none

/-- No operand. -/
def noOperand (made : List Instr) : List (List Char) → Option (List Instr)
  | [] => some made
  | _ => none

/-- One or more operands, one command for each (R95). -/
def manyOperands {α : Type} (read : List Char → Option α) (make : α → Instr) :
    List (List Char) → Option (List Instr)
  | [] => none
  | w :: ws => ((w :: ws).mapM read).map (·.map make)

/-- The operand of NOP is optional (R94). -/
def nopOperand : List (List Char) → Option (List Instr)
  | [] => some [.nop 0]
  | ws => oneOperand hintOperand (fun h => [.nop h]) ws

/-- The commands of a mnemonic and its operands (R94, R95); none where the assembler rejects. -/
def assembleOp (m : List Char) (ops : List (List Char)) : Option (List Instr) :=
  if m = ['N', 'O', 'P'] then nopOperand ops
  else if m = ['S', 'T', 'A', 'R', 'T'] then oneOperand modeOperand (fun mode => [.start mode]) ops
  else if m = ['E', 'N', 'D'] then noOperand [.end_] ops
  else if m = ['A', 'B', 'O', 'R', 'T'] then noOperand [.abort 0] ops
  else if m = ['E', 'N', 'C'] then oneOperand sampleOf (fun o => [.enc o]) ops
  else if m = ['Q', 'E', 'N', 'C'] then oneOperand sampleOf (fun o => [.qenc o]) ops
  else if m = ['S', 'E', 'N', 'C'] then oneOperand hopOperand (fun h => [.senc h]) ops
  else if m = ['D', 'E', 'C'] then oneOperand symOperand (fun y => [.dec y]) ops
  else if m = ['Q', 'D', 'E', 'C'] then oneOperand hopOperand (fun h => [.qdec h]) ops
  else if m = ['S', 'D', 'E', 'C'] then oneOperand symOperand (fun y => [.sdec y]) ops
  else if m = ['R', 'E', 'S', 'T', 'A', 'R', 'T'] then oneOperand modeOperand (fun mode => [.abort 0, .start mode]) ops
  else if m = ['H', 'I', 'N', 'T'] then oneOperand hintOperand (fun h => [.nop h]) ops
  else if m = ['E', 'N', 'C', 'S'] then manyOperands sampleOf .enc ops
  else if m = ['D', 'E', 'C', 'S'] then manyOperands symOperand .dec ops
  else none

/-- The commands of a line's words: an empty line has none (R94, R95). -/
def assembleWords : List (List Char) → Option (List Instr)
  | [] => some []
  | m :: ops => assembleOp m ops

/-- The commands of one line of assembler text (R94, R95). -/
def assembleLine (line : List Char) : Option (List Instr) :=
  assembleWords (lineWords (beforeComment line) [])

/-- A number in decimal digits. -/
def decimal (n : Nat) : List Char := Nat.toDigits 10 n

/-- A signed number in decimal digits. -/
def signedDecimal (v : Int) : List Char :=
  if v < 0 then '-' :: decimal v.natAbs else decimal v.natAbs

/-- A word as eight hexadecimal digits, the highest first. -/
def hexDigits (w : Word) : List Char :=
  [7, 6, 5, 4, 3, 2, 1, 0].map fun i => Nat.digitChar (field w (4 * i) 4).toNat

/-- A symbol operand as it is printed: `X` for the meta-symbol. -/
def symText (y : Byte) : List Char := if y = metaSym then ['X'] else decimal y.toNat

/-- A command as it is printed (R96). -/
def printInstr : Instr → List Char
  | .nop hint => ['N', 'O', 'P'] ++ (if hint = 0 then [] else ' ' :: decimal hint.toNat)
  | .start .enc => ['S', 'T', 'A', 'R', 'T', ' ', 'e', 'n', 'c']
  | .start .dec => ['S', 'T', 'A', 'R', 'T', ' ', 'd', 'e', 'c']
  | .end_ => ['E', 'N', 'D']
  | .abort _ => ['A', 'B', 'O', 'R', 'T']
  | .enc o => ['E', 'N', 'C', ' '] ++ signedDecimal o.toInt
  | .qenc o => ['Q', 'E', 'N', 'C', ' '] ++ signedDecimal o.toInt
  | .senc h => ['S', 'E', 'N', 'C', ' '] ++ decimal h.toNat
  | .dec y => ['D', 'E', 'C', ' '] ++ symText y
  | .qdec h => ['Q', 'D', 'E', 'C', ' '] ++ decimal h.toNat
  | .sdec y => ['S', 'D', 'E', 'C', ' '] ++ symText y

/-- A word as it is printed: a command, or `.word` and its bits (R96). -/
def disassemble (w : Word) : List Char :=
  match decode w with
  | .ok i => printInstr i
  | .error _ => ['.', 'w', 'o', 'r', 'd', ' ', '0', 'x'] ++ hexDigits w

end Sys2Proof.Machine
end

