-- ==== Sys2Proof/Tests/Slice0.lean ====
section
/-! SUPPORT. Tests of the decoder, of one step of each command and of the bus, their expected results
the spec's own words; and for every statement with hypotheses a concrete case that meets them. -/

namespace Sys2Proof.Tests

open Sys2Proof Sys2Proof.Machine

/-! ### Small states -/

/-- The next state, if the outcome is one. -/
def after : Host.Outcome State Fault Refusal → Option State
  | .next s => some s
  | .fault _ => none
  | .refused _ => none

/-- The refusal, if the outcome is one. -/
def refusal : Host.Outcome State Fault Refusal → Option Refusal
  | .next _ => none
  | .fault _ => none
  | .refused r => some r

/-- A channel in a fresh pass under the reset configuration (40_pass_control.md R104). -/
def fresh (st : ChState) : Channel :=
  { Channel.reset.initPass PassConfig.reset with state := st }

/-- The reset state with a given channel 0. -/
def withCh (ch : Channel) : State := { State.reset with ch0 := ch }

/-- Channel 0 in a fresh encode pass, in a fresh decode pass, in FAULT. -/
def encodeS : State := withCh (fresh .encode)

def decodeS : State := withCh (fresh .decode)

def faultS : State := withCh { Channel.reset with state := .fault, err := .opcode }

/-- A fresh pass after one null hop of value 0: `QENC 0` or `QDEC 4` (95_test_vectors.md V-Q1). -/
def afterNull (st : ChState) : State := withCh { fresh st with idx := 1, lws := true }

/-- The reset configuration with other bounds, or another sample count. -/
def bounded (lo hi : Int) : PassConfig :=
  { PassConfig.reset with minSample := BitVec.ofInt 16 lo, maxSample := BitVec.ofInt 16 hi }

def counted (n : Nat) : PassConfig := { PassConfig.reset with sampleCount := BitVec.ofNat 31 n }

/-- The output words of channel 0 after a step. -/
def outs (o : Host.Outcome State Fault Refusal) : Option (List Word) :=
  (after o).map fun s => s.ch0.outQ

/-! ### Decoding (30_encoding.md R83, R97) and well-formedness (R94) -/

theorem test_decode_nop : decode 0x00000000 = .ok (.nop 0) ∧ decode 0x0ABCDEF1 = .ok (.nop 0xABCDEF1) := by
  decide

theorem test_decode_start : decode 0x10000000 = .ok (.start .enc) ∧ decode 0x10000001 = .ok (.start .dec) := by
  decide

theorem test_decode_end_abort : decode 0x20000000 = .ok .end_ ∧ decode 0x30000000 = .ok (.abort 0) := by
  decide

/-- `ENC 1000`, `ENC -5000`, `QENC -1`. -/
theorem test_decode_samples : decode 0x400003E8 = .ok (.enc 1000) ∧ decode 0x4000EC78 = .ok (.enc (-5000)) ∧
    decode 0x5000FFFF = .ok (.qenc (-1)) := by decide

/-- `SENC 4`, `QDEC 7`. -/
theorem test_decode_hops : decode 0x60000004 = .ok (.senc 4) ∧ decode 0x80000007 = .ok (.qdec 7) := by
  decide

/-- `DEC X`, `SDEC 0`. -/
theorem test_decode_symbols : decode 0x70000058 = .ok (.dec 0x58) ∧ decode 0x90000000 = .ok (.sdec 0) := by
  decide

theorem test_decode_reserved : decode 0xA0000000 = .error (.reservedOpcode 0xA) ∧
    decode 0x10000002 = .error (.reservedBits 1) ∧ decode 0x60000010 = .error (.reservedBits 6) := by decide

/-- One ill-formed term for each check of `wellFormed`: the hop of SENC and of QDEC. -/
theorem test_ill_formed : (Instr.senc 15).wellFormed = false ∧ (Instr.qdec 15).wellFormed = false ∧
    (Instr.senc 14).wellFormed = true := by decide

theorem test_decodeTableWord : decodeTableWord 32 0x60000004 = some (.senc 4) ∧
    decodeTableWord 32 0xF0000000 = none := by decide

/-- A placed START opens a pass in the very next step. -/
theorem test_withFetchWord :
    (after (step (State.reset.withFetchWord 32 0x10000000))).map (·.ch0.state) = some .encode := by
  decide +kernel

/-! ### One step of each command -/

theorem test_nop : after (exec (.nop 5) encodeS) = some encodeS := by decide +kernel

/-- 40_pass_control.md R102's example. -/
theorem test_start : (after (exec (.start .enc) State.reset)).map
    (fun s => (s.ch0.state, s.ch0.stepSize, s.ch0.xlen)) = some (.encode, 64, 8) := by decide +kernel

/-- 40_pass_control.md R105's example: seven pending nulls. -/
theorem test_end : outs (exec .end_ (withCh { fresh .encode with run := 7 })) =
    some (List.replicate 7 0xA0000000) := by decide +kernel

/-- 40_pass_control.md R107's example. -/
theorem test_abort : (after (exec (.abort 9) faultS)).map (fun s => (s.ch0.state, s.ch0.err)) =
    some (.idle, .none) := by decide +kernel

/-- 44_pipeline.md R180's example. -/
theorem test_enc : (after (exec (.enc 0) encodeS)).map (fun s => (s.ch0.outQ, s.ch0.run)) =
    some ([0x90040000], 1) := by decide +kernel

/-- 95_test_vectors.md V-Q1. -/
theorem test_qenc : outs (exec (.qenc 1000) (afterNull .encode)) = some [0x90070400] := by decide +kernel

/-- 95_test_vectors.md V-Q12: the tie at the outermost level under OUTER. -/
theorem test_qenc_outer : outs (exec (.qenc 2560)
    { afterNull .encode with
      params := { Params.default with outerTie := { Params.default.outerTie with nl9 := .outer } } }) =
    some [0x90081000] := by decide +kernel

/-- 43_symbol_codec.md R167's example: the eighth null. -/
theorem test_senc_meta : (after (exec (.senc 4) (withCh { fresh .encode with run := 7 }))).map
    (fun s => (s.ch0.outQ, s.ch0.xlen, s.ch0.run)) = some ([0xA0000058], 10, 0) := by decide +kernel

/-- 43_symbol_codec.md R175: a run of seven, then hop 5. -/
theorem test_senc_break : (after (exec (.senc 5) (withCh { fresh .encode with run := 7 }))).map
    (fun s => (s.ch0.outQ, s.ch0.xlen)) =
    some (List.replicate 7 0xA0000000 ++ [0xA0000001], 8) := by decide +kernel

/-- 44_pipeline.md R182's example. -/
theorem test_dec : (after (exec (.dec 0) decodeS)).map (fun s => (s.ch0.outQ, s.ch0.run, s.ch0.idx)) =
    some ([0xB0040000], 1, 1) := by decide +kernel

/-- 44_pipeline.md R182: a meta-symbol is eight reconstructor steps. -/
theorem test_dec_meta : (after (exec (.dec 0x58) decodeS)).map (fun s => (s.ch0.outQ, s.ch0.idx)) =
    some (List.replicate 8 0xB0040000, 8) := by decide +kernel

/-- 42_reconstructor.md R149's example. -/
theorem test_qdec : outs (exec (.qdec 7) (afterNull .decode)) = some [0xB0070400] := by decide +kernel

/-- 43_symbol_codec.md R173's example. -/
theorem test_sdec : (after (exec (.sdec 0x58) decodeS)).map (fun s => (s.ch0.outQ, s.ch0.xlen)) =
    some (List.replicate 8 0xC0040000, 10) := by decide +kernel

/-- 60_exceptions.md R196's example: `QDEC 15` with `i = SAMPLE_COUNT` raises HOP. -/
theorem test_priority : (after (exec (.qdec 15) (withCh { fresh .decode with cfg := counted 0 }))).map
    (·.ch0.err) = some .hop := by decide +kernel

/-! ### The bus (10_state.md R21, R22, R38, R53) -/

theorem test_bus_reset_reads : (busRead State.reset 0x000).1 = 0x4C484501 ∧
    (busRead State.reset 0x004).1 = 0x004010F2 ∧ (busRead State.reset 0x120).1 = 8 := by decide +kernel

theorem test_status : statusWord { fresh .encode with run := 1, lws := true } = 0x301 := by decide +kernel

/-- What an instance with one channel shows at the end of a run: thirteen global registers and the ten
of channel 0 (10_state.md R20, R50). -/
theorem test_observe_one_channel :
    let s := { State.reset with params := { Params.default with numChannels := .one } }
    (observe s).emitted = [[]] ∧ (observe s).registers.length = 23 ∧
    (observe State.reset).registers.length = 33 ∧ runOver s = true := by decide +kernel

/-- 00_scope.md R8: a queue depth of 0 is not legal, 1 and 255 are. -/
theorem test_params_legal : { Params.default with cmdqDepth := 0 }.legal = false ∧
    { Params.default with outqDepth := 0 }.legal = false ∧
    { Params.default with cmdqDepth := 1, outqDepth := 255 }.legal = true := by decide

theorem test_assembler : assembleLine "ENCS 1, -1 ; two".toList = some [.enc 1, .enc (-1)] ∧
    assembleLine "SENC 15".toList = none := by decide +kernel

/-! ### A case for every statement with hypotheses, clause by clause -/

theorem witness_EncodeOfDecode : decode 0x10000001 = .ok (.start .dec) := by decide

theorem witness_ReservedOpcodeFaults : 10 ≤ (field 0xA0000000 28 4).toNat ∧
    10 ≤ (field 0xFFFFFFFF 28 4).toNat ∧ (encodeS.ch .ch0).state ≠ .fault := by decide

theorem witness_ReservedBitsFault :
    (field 0x10000002 28 4 = 1 ∧ field 0x10000002 1 27 ≠ 0) ∧
    (field 0x20000001 28 4 = 2 ∧ field 0x20000001 0 28 ≠ 0) ∧
    (field 0x48000000 28 4 = 4 ∧ field 0x48000000 16 12 ≠ 0) ∧
    (field 0x50010000 28 4 = 5 ∧ field 0x50010000 16 12 ≠ 0) ∧
    (field 0x60000010 28 4 = 6 ∧ field 0x60000010 4 24 ≠ 0) ∧
    (field 0x88000000 28 4 = 8 ∧ field 0x88000000 4 24 ≠ 0) ∧
    (field 0x70000100 28 4 = 7 ∧ field 0x70000100 8 20 ≠ 0) ∧
    (field 0x98000000 28 4 = 9 ∧ field 0x98000000 8 20 ≠ 0) ∧
    field 0x0FFFFFFF 28 4 = 0 ∧ field 0x3FFFFFFF 28 4 = 3 := by decide

theorem witness_NopNoEffect : field 0x0FFFFFFF 28 4 = 0 := by decide

theorem witness_StartOpensPass : State.reset.act.state = .idle ∧ cfgValid State.reset.latched = true ∧
    inBounds State.reset.latched State.reset.act.firstAmp = true := by decide +kernel

theorem witness_StartFaults_state : encodeS.act.state = .encode ∧ decodeS.act.state = .decode := by decide

theorem witness_StartFaults_config :
    let s := { State.reset with live := { PassConfig.reset with numLevels := 1 } }
    s.act.state = .idle ∧ cfgValid s.latched = false := by decide +kernel

theorem witness_StartFaults_seed :
    let s := { State.reset with live := bounded 1 2 }
    s.act.state = .idle ∧ cfgValid s.latched = true ∧ inBounds s.latched s.act.firstAmp = false := by
  decide +kernel

theorem witness_StartLatchDraw :
    let s := { State.reset with raced := [(.mode, 0x00010003)] }
    (CfgReg.mode, (0x00010003 : Word)) ∈ s.raced ∧ ∀ x ∈ s.raced, x.1 ≠ .exp := by decide

theorem witness_EndEncodeFlushes : encodeS.act.state = .encode := by decide

theorem witness_EndDecodeAndIdle : decodeS.act.state = .decode ∧ State.reset.act.state = .idle := by decide

theorem witness_FaultDiscards : (faultS.ch .ch0).state = .fault ∧ field 0x10000000 28 4 ≠ 3 := by decide

theorem witness_PassStateTable : ∃ t, runWord encodeS .ch0 ⟨0x20000000, []⟩ [] = .next t := ⟨_, rfl⟩

theorem witness_PredictionRule :
    (fresh .encode).idx = 0 ∧ { fresh .encode with idx := 1 }.idx = 1 ∧
    2 ≤ { fresh .encode with idx := 2 }.idx.toNat ∧ PassConfig.reset.pmode = .zeroOrderHold ∧
    { PassConfig.reset with pmode := .linear }.pmode = .linear := by decide

theorem witness_OffsetFunction : Params.default.offsetFn = .reference ∧ 1 ≤ (1 : Half).toNat ∧
    1 ≤ PassConfig.reset.expNum.toNat ∧ 1 ≤ PassConfig.reset.expDen.toNat := by decide

/-- `RANGE` 1 and `RANGE` 2, the two sides of the border. -/
theorem witness_CandidateRule :
    (bounded 0 1).maxSample.toInt - (bounded 0 1).minSample.toInt < 2 ∧
    2 ≤ (bounded 0 2).maxSample.toInt - (bounded 0 2).minSample.toInt := by decide +kernel

/-- The last sample that the count allows. -/
theorem witness_QencResult :
    let s := withCh { fresh .encode with cfg := counted 1 }
    s.act.state = .encode ∧ inBounds s.act.cfg 0x7FFF = true ∧ inBounds s.act.cfg 0x8000 = true ∧
    s.act.idx.toNat + 1 ≤ s.act.cfg.sampleCount.toNat := by decide +kernel

theorem witness_SampleCommandFaults_state : State.reset.act.state = .idle ∧ decodeS.act.state = .decode := by
  decide

theorem witness_SampleCommandFaults_sample :
    let s := withCh { fresh .encode with cfg := bounded (-1) 1 }
    s.act.state = .encode ∧ (BitVec.ofInt 16 (-2)).toInt < s.act.cfg.minSample.toInt ∧
    s.act.cfg.maxSample.toInt < (2 : Half).toInt := by decide +kernel

theorem witness_SampleCommandFaults_count :
    let s := withCh { fresh .encode with cfg := counted 0 }
    s.act.state = .encode ∧ inBounds s.act.cfg 0 = true ∧
    s.act.cfg.sampleCount.toNat < s.act.idx.toNat + 1 := by decide +kernel

theorem witness_FirstSampleIsNull : encodeS.act.state = .encode ∧ encodeS.act.idx = 0 ∧
    inBounds encodeS.act.cfg 0x8000 = true ∧ 1 ≤ encodeS.act.cfg.sampleCount.toNat ∧
    tieOf encodeS.params.outerTie (nlOf encodeS.act.cfg) = .inner := by decide +kernel

/-- The smallest alphabet whose first level is not the outermost, under OUTER. -/
theorem witness_FirstSampleIsNull_outer :
    let c := { PassConfig.reset with numLevels := 5, prioLo := 0x00031024 }
    let s := { withCh { fresh .encode with cfg := c } with
               params := { Params.default with outerTie := { Params.default.outerTie with nl5 := .outer } } }
    cfgValid c = true ∧ s.act.state = .encode ∧ s.act.idx = 0 ∧ inBounds s.act.cfg 0 = true ∧
    1 ≤ s.act.cfg.sampleCount.toNat ∧ tieOf s.params.outerTie (nlOf s.act.cfg) = .outer ∧
    kOf s.act.cfg = 2 := by decide +kernel

theorem fresh_decode_inv : PassInv (fresh .decode) where
  valid := by decide +kernel
  stepLow := by decide
  stepHigh := by decide
  count := by decide
  seed := by decide +kernel
  last := by decide +kernel
  second := by decide +kernel

theorem witness_ReconstructionInBounds : PassInv (fresh .decode) ∧
    inBounds (fresh .decode).cfg 0x8000 = true := ⟨fresh_decode_inv, by decide +kernel⟩

theorem witness_QuantizerHopInRange : 1 ≤ nlOf (fresh .encode).cfg := by decide

/-- The highest hop index, at the last sample. -/
theorem witness_QdecResult :
    let s := withCh { fresh .decode with cfg := counted 1 }
    s.act.state = .decode ∧ (8 : Nibble).toNat < nlOf s.act.cfg ∧
    s.act.idx.toNat + 1 ≤ s.act.cfg.sampleCount.toNat := by decide +kernel

theorem witness_HopCommandFaults :
    (State.reset.act.state = .idle ∧ encodeS.act.state = .encode ∧ decodeS.act.state = .decode) ∧
    nlOf decodeS.act.cfg ≤ (9 : Nibble).toNat ∧ nlOf encodeS.act.cfg ≤ (15 : Nibble).toNat := by decide

theorem witness_HopCommandFaults_count :
    let s := withCh { fresh .decode with cfg := counted 0 }
    s.act.state = .decode ∧ (0 : Nibble).toNat < nlOf s.act.cfg ∧
    s.act.cfg.sampleCount.toNat < s.act.idx.toNat + 1 := by decide

theorem witness_ReconstructorReplaysSample :
    1 ≤ nlOf (fresh .encode).cfg ∧ (fresh .decode).cfg = (fresh .encode).cfg ∧
    samePredictor (fresh .encode) (fresh .decode) ∧ (fresh .decode).firstAmp = 0 :=
  ⟨by decide, rfl, ⟨rfl, rfl, rfl, rfl, rfl⟩, rfl⟩

theorem witness_PassRoundTrip : encodeS.params = decodeS.params ∧ encodeS.act.state = .encode ∧
    decodeS.act.state = .decode ∧ decodeS.act.cfg = encodeS.act.cfg ∧
    cfgValid encodeS.act.cfg = true ∧ samePredictor encodeS.act decodeS.act ∧
    decodeS.act.firstAmp = 0 ∧
    (after (runCommands ([0, 1000].map .qenc) encodeS)).map (·.act.state) = some .encode :=
  ⟨rfl, rfl, rfl, rfl, by decide +kernel, ⟨rfl, rfl, rfl, rfl, rfl⟩, rfl, by decide +kernel⟩

/-- The four clauses of SENC: a null counted and a null that completes the run, at the threshold's
lowest and highest values, and another hop. -/
theorem witness_SencResult :
    let k := prioOf PassConfig.reset
    let run6 := { fresh .encode with run := 6 }
    let run7 := { fresh .encode with run := 7 }
    let last := { fresh .encode with xlen := 0xFFFFFFFD, run := 0xFFFFFFFC }
    let beyond := { fresh .encode with xlen := 0xFFFFFFFE, run := 0xFFFFFFFD }
    k 4 = 0 ∧ run6.run.toNat + 1 ≠ run6.xlen.toNat ∧ run7.run.toNat + 1 = run7.xlen.toNat ∧
    last.run.toNat + 1 = last.xlen.toNat ∧ last.xlen.toNat + 2 < 2 ^ 32 ∧
    beyond.run.toNat + 1 = beyond.xlen.toNat ∧ 2 ^ 32 ≤ beyond.xlen.toNat + 2 ∧ k 5 ≠ 0 := by
  decide +kernel

/-- The clauses of SDEC: a meta-symbol at the threshold's lowest and highest values, the last center
symbol that a run allows, and the highest rank. -/
theorem witness_SdecResult :
    let last := { fresh .decode with xlen := 0xFFFFFFFD }
    let beyond := { fresh .decode with xlen := 0xFFFFFFFE }
    let run6 := { fresh .decode with run := 6 }
    (fresh .decode).run.toNat = 0 ∧ last.xlen.toNat + 2 < 2 ^ 32 ∧ 2 ^ 32 ≤ beyond.xlen.toNat + 2 ∧
    run6.run.toNat + 1 < run6.xlen.toNat ∧ 1 ≤ nlOf run6.cfg ∧
    (8 : Byte).toNat < nlOf run6.cfg ∧ (0 : Nibble).toNat < nlOf run6.cfg ∧
    (prioOf run6.cfg 0).toNat = 8 ∧ cfgValid run6.cfg = true := by decide +kernel

theorem witness_SymbolCommandFaults :
    let run1 := { fresh .decode with run := 1 }
    let run7 := { fresh .decode with run := 7 }
    (9 : Byte) ≠ 0x58 ∧ nlOf (fresh .decode).cfg ≤ (9 : Byte).toNat ∧ run1.run.toNat ≠ 0 ∧
    1 ≤ nlOf run7.cfg ∧ run7.xlen.toNat ≤ run7.run.toNat + 1 ∧ State.reset.act.state = .idle ∧
    encodeS.act.state = .encode ∧ decodeS.act.state = .decode := by decide +kernel

theorem witness_ThresholdSchedule : encodeS.act.state = .encode ∧ cfgValid encodeS.act.cfg = true ∧
    encodeS.act.xlen = 8 ∧ encodeS.act.run = 0 ∧ (5 : Nibble).toNat < nlOf encodeS.act.cfg ∧
    (5 : Nibble).toNat ≠ kOf encodeS.act.cfg := by decide +kernel

/-- A run collapsed, a run broken and a run pending at END. -/
theorem witness_SymbolRoundTrip :
    let hs := List.replicate 8 (4 : Nibble) ++ [5, 4, 3, 4]
    (∀ h ∈ hs, h.toNat < nlOf encodeS.act.cfg) ∧ encodeS.act.outQ = [] ∧ encodeS.act.symCount = 0 ∧
    decodeS.act.outQ = [] ∧ decodeS.act.symCount = 0 ∧ decodeS.act.xlen = 8 ∧ decodeS.act.run = 0 ∧
    outs (runCommands (hs.map .senc ++ [.end_]) encodeS) =
      some [0xA0000058, 0xA0000001, 0xA0000000, 0xA0000002, 0xA0000000] := by decide +kernel

theorem witness_SymCountRule :
    (∃ t, exec (.start .enc) State.reset = .next t ∧ t.act.state ≠ .fault) ∧
    (∃ t, exec (.senc 5) encodeS = .next t) ∧
    (∃ t, exec (.sdec 0) decodeS = .next t ∧ t.act.state = .decode) ∧
    (∃ t, exec (.sdec 9) decodeS = .next t ∧ t.act.state ≠ .decode) ∧
    ∃ t, exec (.sdec 0) faultS = .next t :=
  ⟨⟨_, rfl, by decide +kernel⟩, ⟨_, rfl⟩, ⟨_, rfl, by decide +kernel⟩, ⟨_, rfl, by decide +kernel⟩,
    ⟨_, rfl⟩⟩

theorem witness_EncIsQencThenSenc : ∃ t, encodeS.act.state = .encode ∧
    cfgValid encodeS.act.cfg = true ∧ exec (.qenc 0) encodeS = .next t ∧ t.act.state = .encode :=
  ⟨_, rfl, by decide +kernel, rfl, by decide +kernel⟩

/-- The largest threshold at which ENC completes on every sample. -/
theorem witness_EncResult :
    let s := withCh { fresh .encode with xlen := 0xFFFFFFFD, cfg := counted 1 }
    s.act.state = .encode ∧ inBounds s.act.cfg 0 = true ∧
    s.act.idx.toNat + 1 ≤ s.act.cfg.sampleCount.toNat ∧ s.act.xlen.toNat + 2 < 2 ^ 32 := by decide +kernel

theorem witness_DecResult_hop :
    let s := withCh { fresh .decode with run := 6, cfg := counted 1 }
    s.act.state = .decode ∧ cfgValid s.act.cfg = true ∧ (4 : Nibble).toNat < nlOf s.act.cfg ∧
    (prioOf s.act.cfg 4).toNat = (0 : Byte).toNat ∧ s.act.run.toNat + 1 < s.act.xlen.toNat ∧
    s.act.idx.toNat + 1 ≤ s.act.cfg.sampleCount.toNat := by decide +kernel

theorem witness_DecResult_meta :
    let s := withCh { fresh .decode with cfg := counted 8 }
    cfgValid s.act.cfg = true ∧ s.act.run.toNat = 0 ∧
    s.act.idx.toNat + s.act.xlen.toNat ≤ s.act.cfg.sampleCount.toNat := by decide +kernel

theorem witness_DecCountBeforeAnyWrite :
    let s7 := withCh { fresh .decode with cfg := counted 7 }
    let s0 := withCh { fresh .decode with cfg := counted 0 }
    s7.act.state = .decode ∧ s7.act.run.toNat = 0 ∧
    s7.act.cfg.sampleCount.toNat < s7.act.idx.toNat + s7.act.xlen.toNat ∧
    (0 : Byte) ≠ 0x58 ∧ (0 : Byte).toNat < nlOf s0.act.cfg ∧
    s0.act.run.toNat + 1 < s0.act.xlen.toNat ∧
    s0.act.cfg.sampleCount.toNat < s0.act.idx.toNat + 1 := by decide +kernel

theorem witness_DecIsSdecThenQdecs : ∃ t, decodeS.act.state = .decode ∧
    cfgValid decodeS.act.cfg = true ∧ exec (.dec 0) decodeS = .next t ∧ t.act.state = .decode :=
  ⟨_, rfl, by decide +kernel, rfl, by decide +kernel⟩

theorem witness_FaultEntry_word : ∃ t, runWord encodeS .ch0 ⟨0x10000000, []⟩ [] = .next t ∧
    (encodeS.ch .ch0).state ≠ .fault ∧ (t.ch .ch0).state = .fault :=
  ⟨_, rfl, by decide, by decide +kernel⟩

theorem witness_FaultEntry_write :
    let s := withCh { Channel.reset with cmdQ := List.replicate 16 ⟨0, []⟩ }
    (s.ch .ch0).state ≠ .fault ∧ ((busWrite s 0x100 0).ch .ch0).state = .fault := by decide +kernel

theorem reset_channel_inv : ChanInv 16 Channel.reset :=
  ⟨by decide, by decide, by decide, by decide, by decide,
    fun _ h => absurd h List.not_mem_nil, fun h => absurd h (by decide)⟩

theorem fresh_channel_inv : ChanInv 16 (fresh .decode) :=
  ⟨by decide, by decide, by decide, by decide, by decide,
    fun _ h => absurd h List.not_mem_nil, fun _ => fresh_decode_inv⟩

theorem witness_FaultEntry_done : ChanInv 16 (fresh .decode) ∧ (fresh .decode).state = .decode :=
  ⟨fresh_channel_inv, rfl⟩

theorem witness_ChannelsIsolated : ∃ t, runWord encodeS .ch0 ⟨0x50000000, []⟩ [] = .next t := ⟨_, rfl⟩

/-- Two writes to a channel's registers: an overflow of channel 0, and a seed of channel 1. -/
theorem witness_ChannelsIsolated_write :
    let s := withCh { Channel.reset with cmdQ := List.replicate 16 ⟨0, []⟩ }
    (busWrite s 0x100 0).ch0.err = .overflow ∧ (0x100 : Nat) < 0x140 ∧
    (busWrite s 0x14C 5).ch1.firstAmp = 5 ∧ (0x140 : Nat) ≤ 0x14C ∧ (0x14C : Nat) < 0x180 := by
  decide +kernel

/-- A QENC on the same channel in two states that differ in everything else, the live configuration
among it, which only a START reads. -/
theorem witness_ChannelNoninterference :
    let other := { encodeS with ch1 := fresh .decode, host := [.hardReset], schedule := [.host],
                                live := bounded 1 2, raced := [(.mode, 0)] }
    encodeS.act = other.act ∧ encodeS.params = other.params ∧ encodeS.live ≠ other.live ∧
    (∀ mode, Instr.qenc 0 ≠ .start mode) ∧ ∃ t, exec (.qenc 0) encodeS = .next t :=
  ⟨rfl, rfl, by decide +kernel, fun _ => nofun, _, rfl⟩

/-- A START in two states that differ in the other channel and the host's side. -/
theorem witness_ChannelNoninterference_start :
    let other := { State.reset with ch1 := fresh .decode, host := [.hardReset] }
    State.reset.act = other.act ∧ State.reset.params = other.params ∧
    State.reset.latched = other.latched ∧ ∃ t, exec (.start .enc) State.reset = .next t :=
  ⟨rfl, rfl, rfl, _, rfl⟩

/-- SENC stops in both, at a threshold beyond the spec. -/
theorem witness_ChannelNoninterference_refused :
    let s := withCh { fresh .encode with xlen := 0xFFFFFFFE, run := 0xFFFFFFFD }
    refusal (exec (.senc 4) s) = some .thresholdBeyondSpec := by decide +kernel

/-- The register notes its old value in a waiting START and in no other word. -/
theorem witness_ConfigWriteKeepsPasses :
    let s := withCh { Channel.reset with cmdQ := [⟨0, []⟩, ⟨0x10000001, []⟩] }
    field 0x10000001 28 4 = 1 ∧ field 0x10000001 1 27 = 0 ∧
    ((busWrite s 0x010 5).ch .ch0).cmdQ = [⟨0, []⟩, ⟨0x10000001, [(.mode, 0x00010009)]⟩] := by
  decide +kernel

theorem witness_ConfigReadBack :
    (0x010, 0x0007010F) ∈ [((0x010 : Nat), (0x0007010F : Word)), (0x034, 0x0FFFFFFF)] ∧
    (0x010 : Nat) ≤ 0x034 ∧ (0x034 : Nat) ≠ 0x010 := by decide

theorem witness_ReadOnlyRegisters : State.reset.present .ch0 = true ∧ State.reset.present .ch1 = true := by
  decide

theorem witness_ReservedAndReadOnly :
    { State.reset with params := { Params.default with numChannels := .one } }.params.numChannels = .one := by
  decide

theorem witness_OnlyOutputReadPops :
    let ch := { Channel.reset with outQ := [0xA0000000, 0xA0000001] }
    let s := { State.reset with ch0 := ch, ch1 := ch }
    s.ch0.outQ = [0xA0000000, 0xA0000001] ∧ s.ch1.outQ = [0xA0000000, 0xA0000001] ∧
    State.reset.ch0.outQ = [] ∧ State.reset.ch1.outQ = [] ∧ s.params.numChannels = .two := by decide

/-- The last word that fits, and the first that does not. -/
theorem witness_CommandWrite :
    let q := fun n => List.replicate n (⟨0, []⟩ : Queued)
    State.reset.present .ch1 = true ∧ (q 15).length < State.reset.params.cmdqDepth.toNat ∧
    State.reset.params.cmdqDepth.toNat ≤ (q 16).length := by decide +kernel

theorem witness_FirstAmpWrite : encodeS.present .ch0 = true ∧ (encodeS.ch .ch0).state = .encode ∧
    (State.reset.ch .ch0).state = .idle ∧ (State.reset.ch .ch0).cmdQ = [] ∧
    (faultS.ch .ch0).state = .fault := by decide

/-- Bit 0 alone, bit 0 with every other bit, and every bit but bit 0. -/
theorem witness_ResetEffect : (1 : Word).getLsbD 0 = true ∧ (0xFFFFFFFF : Word).getLsbD 0 = true ∧
    (0xFFFFFFFE : Word).getLsbD 0 = false := by decide

/-- The three clauses at both ends of the window. -/
theorem witness_AccessForms : (0x1FF : Nat) < 0x200 ∧ Width.byte ≠ .word ∧ (0x1FF : Nat) % 4 ≠ 0 ∧
    (0x1FC : Nat) % 4 = 0 ∧ (0 : Nat) % 4 = 0 := by decide

theorem witness_StepRunsDecoded :
    let s := State.reset.withFetchWord 32 0x50000000
    s.schedule = [.engine .ch0] ∧ s.present .ch0 = true ∧
    heldBack { s with schedule := [] } .ch0 = false ∧ (s.ch .ch0).cmdQ = [⟨0x50000000, []⟩] ∧
    decode 0x50000000 = .ok (.qenc 0) := by decide +kernel

/-- An illegal word at the head of the queue. -/
theorem witness_StepRunsDecoded_illegal :
    let s := State.reset.withFetchWord 32 0xA0000000
    s.schedule = [.engine .ch0] ∧ heldBack { s with schedule := [] } .ch0 = false ∧
    (s.ch .ch0).cmdQ = [⟨0xA0000000, []⟩] ∧ decode 0xA0000000 = .error (.reservedOpcode 0xA) ∧
    (after (step s)).map (·.ch0.err) = some .opcode := by decide +kernel

/-- An empty queue; a channel that the instance does not have. -/
theorem witness_StepRunsDecoded_idle : (State.reset.ch .ch0).cmdQ = [] ∧
    { State.reset with params := { Params.default with numChannels := .one } }.present .ch1 = false := by
  decide

/-- A command that fills the queue to its depth, and one that emits nothing into an overfull one. -/
theorem witness_HeldCommandWaits_fits :
    let p := { Params.default with holdOutput := true, outqDepth := 2 }
    let s := { withCh { fresh .encode with cmdQ := [⟨0x50000000, []⟩], outQ := [0xA0000000] } with params := p }
    let full := { withCh { fresh .encode with cmdQ := [⟨0x60000004, []⟩], outQ := [1, 2, 3] } with params := p }
    (after (runWord s .ch0 ⟨0x50000000, []⟩ [])).map (·.ch0.outQ.length) = some 2 ∧
    (after (runWord full .ch0 ⟨0x60000004, []⟩ [])).map (·.ch0.outQ.length) = some 3 ∧
    State.reset.params.holdOutput = false := by decide +kernel

/-- A command that waits for room, on an instance that holds its output. -/
theorem witness_HeldCommandWaits : ∃ t,
    let s := { withCh { fresh .encode with cmdQ := [⟨0x50000000, []⟩], outQ := [0xA0000000] } with
               params := { Params.default with holdOutput := true, outqDepth := 1 } }
    runWord s .ch0 ⟨0x50000000, []⟩ [] = .next t ∧
    (s.ch .ch0).outQ.length < (t.ch .ch0).outQ.length ∧
    s.params.outqDepth.toNat < (t.ch .ch0).outQ.length := ⟨_, rfl, by decide +kernel, by decide +kernel⟩

/-- Nobody can move; the host alone can; the host and both channels can. -/
theorem witness_SomeMoverMoves :
    let q := { Channel.reset with cmdQ := [⟨0, []⟩] }
    let host := { State.reset with host := [.hardReset] }
    let all := { host with ch0 := q, ch1 := q }
    State.reset.schedule = [] ∧ movers State.reset = [] ∧ movers host = [.host] ∧
    movers all = [.host, .engine .ch0, .engine .ch1] := by decide +kernel

/-- The host's next two accesses, the first of which is the one it performs. -/
theorem witness_SomeMoverMoves_host :
    let s := { State.reset with host := [.write .word 0x10C 5, .read .word 0x10C] }
    s.host = .write .word 0x10C 5 :: [.read .word 0x10C] ∧ State.reset.host = [] ∧
    (after (agentStep s .host)).map (fun t => (t.ch0.firstAmp, t.host)) =
      some (5, [.read .word 0x10C]) := by decide +kernel

theorem witness_SomeMoverMoves_scheduled :
    (State.reset.withFetchWord 32 0).schedule = [.engine .ch0] := by decide +kernel

/-- A held command with nobody to read: no mover, and the block hangs. -/
theorem witness_SomeMoverMoves_stalled :
    let s := { withCh { fresh .encode with cmdQ := [⟨0x50000000, []⟩], outQ := [0xA0000000] } with
               params := { Params.default with holdOutput := true, outqDepth := 1 } }
    movers s = [] ∧ stalled s = true := by decide +kernel

theorem witness_StepKeepsInvariant : MachineInv State.reset ∧ ∃ t, step State.reset = .next t :=
  ⟨⟨reset_channel_inv, reset_channel_inv, by decide, by decide⟩, _, rfl⟩

end Sys2Proof.Tests
end

/-! SUPPORT. The invariant of the machine at reset and under every step (O59, O60). From the inside
out: output words, the predictor datapath in an open pass, the updates of one channel, each command
as a verdict, then the engines, the host and the machine's step. -/

namespace Sys2Proof.Machine

/-! ### Output words (10_state.md R89, R90) -/

theorem kindOf_outWord (kind : OutKind) (hop : Nibble) (data : Half) :
    kindOf (outWord kind hop data) = kind.code := by
  apply BitVec.eq_of_getLsbD_eq
  intro i hi
  interval_cases i <;> simp [kindOf, field, outWord, place]

theorem msb_outWord (kind : OutKind) (hop : Nibble) (data : Half) :
    (outWord kind hop data).msb = true := by
  simp [BitVec.msb_eq_getLsbD_last, outWord, place]

theorem producedWord_outWord (kind : OutKind) (hop : Nibble) (data : Half) :
    producedWord (outWord kind hop data) = true := by
  rw [producedWord, msb_outWord, kindOf_outWord]
  cases kind <;> rfl

/-! ### What a valid configuration and the sample bounds say -/

theorem inBounds_iff (c : PassConfig) (o : Half) :
    inBounds c o = true ↔ minOf c ≤ o.toInt ∧ o.toInt ≤ maxOf c := by
  simp [inBounds]

theorem cfgValid_minOf_le {c : PassConfig} (h : cfgValid c = true) : minOf c ≤ maxOf c := by
  simp only [cfgValid, Bool.and_eq_true, decide_eq_true_eq] at h
  exact h.1.2

theorem cfgValid_stepMin_le {c : PassConfig} (h : cfgValid c = true) :
    c.stepMin.toNat ≤ c.stepMax.toNat := by
  simp only [cfgValid, Bool.and_eq_true, decide_eq_true_eq] at h
  exact h.1.1.1.2

theorem toInt_toHalf {v : Int} (hlo : -2 ^ 15 ≤ v) (hhi : v < 2 ^ 15) : (toHalf v).toInt = v := by
  rw [toHalf, BitVec.toInt_ofInt, Int.bmod_eq_of_le] <;> omega

/-- A value between the sample bounds keeps its value as a sample. -/
theorem inBounds_toHalf {c : PassConfig} {v : Int} (hlo : minOf c ≤ v) (hhi : v ≤ maxOf c) :
    inBounds c (toHalf v) = true := by
  have hmin : -2 ^ 15 ≤ minOf c := BitVec.le_toInt c.minSample
  have hmax : maxOf c < 2 ^ 15 := BitVec.toInt_lt
  rw [inBounds_iff, toInt_toHalf (by omega) (by omega)]
  exact ⟨hlo, hhi⟩

/-! ### The predictor datapath stays within the bounds (41_quantizer.md R119, R139, R141) -/

/-- R118, R119: the prediction is within the sample bounds when the value it starts from is. -/
theorem predict_bounds {ch : Channel} {seed : Int} (hc : minOf ch.cfg ≤ maxOf ch.cfg)
    (hseed : ch.idx = 0 → minOf ch.cfg ≤ seed ∧ seed ≤ maxOf ch.cfg)
    (hlast : ch.idx ≠ 0 → inBounds ch.cfg ch.r1 = true) :
    minOf ch.cfg ≤ predict ch seed ∧ predict ch seed ≤ maxOf ch.cfg := by
  unfold predict
  by_cases h0 : ch.idx = 0
  · simpa [h0] using hseed h0
  · have hr1 := (inBounds_iff _ _).1 (hlast h0)
    rw [if_neg h0]
    split
    · exact hr1
    · split
      · exact hr1
      · exact clampTo_bounds _ hc

/-- R125, R126: a clamped candidate is within the shifted bounds when the prediction is. -/
theorem clampC_bounds {c : PassConfig} {hop0u : Int} (v : Int) (h0 : 0 ≤ hop0u)
    (h1 : hop0u ≤ rangeOf c) : 0 ≤ clampC c hop0u v ∧ clampC c hop0u v ≤ rangeOf c := by
  unfold clampC
  split
  · exact ⟨h0, h1⟩
  · have := clampTo_bounds (lo := 1) (hi := rangeOf c - 1) v (by omega)
    omega

theorem cand_bounds (p : Params) (ch : Channel) {hop0u : Int} (level : Int) (h0 : 0 ≤ hop0u)
    (h1 : hop0u ≤ rangeOf ch.cfg) :
    0 ≤ cand p ch hop0u level ∧ cand p ch hop0u level ≤ rangeOf ch.cfg := by
  unfold cand
  split
  · exact ⟨h0, h1⟩
  · split
    · exact clampC_bounds _ h0 h1
    · exact clampC_bounds _ h0 h1

/-- R139: whatever the level, the reconstructed sample is within the sample bounds when the
prediction is. -/
theorem inBounds_reconOf (p : Params) (ch : Channel) {hop0 : Int} (level : Int)
    (h0 : minOf ch.cfg ≤ hop0) (h1 : hop0 ≤ maxOf ch.cfg) :
    inBounds ch.cfg (reconOf p ch hop0 level) = true := by
  have hcand := cand_bounds p ch (hop0u := hop0 - minOf ch.cfg) level (by omega)
    (by unfold rangeOf; omega)
  have hrange : rangeOf ch.cfg = maxOf ch.cfg - minOf ch.cfg := rfl
  exact inBounds_toHalf (by omega) (by omega)

/-- R141: the step size stays between `STEP_MIN` and `STEP_MAX`. -/
theorem nextStep_bounds {ch : Channel} (level : Int)
    (hc : ch.cfg.stepMin.toNat ≤ ch.cfg.stepMax.toNat)
    (hs : ch.stepSize.toNat ≤ ch.cfg.stepMax.toNat) :
    ch.cfg.stepMin.toNat ≤ (nextStep ch level).toNat ∧
      (nextStep ch level).toNat ≤ ch.cfg.stepMax.toNat := by
  have hmax : ch.cfg.stepMax.toNat < 2 ^ 16 := ch.cfg.stepMax.isLt
  simp only [nextStep, Channel.updateStep]
  split
  · rw [BitVec.toNat_ofNat, Nat.mod_eq_of_lt (by omega)]
    omega
  · exact ⟨hc, le_rfl⟩

/-! ### An open pass -/

/-- R109: the sample index does not wrap below the sample limit, which has 31 bits. -/
theorem toNat_idx_add_one {ch : Channel} (h : ch.idx.toNat + 1 ≤ ch.cfg.sampleCount.toNat) :
    (ch.idx + 1).toNat = ch.idx.toNat + 1 := by
  have := ch.cfg.sampleCount.isLt
  rw [BitVec.toNat_add, Nat.mod_eq_of_lt (by simp; omega)]
  rfl

/-- A first sample within the bounds is a seed for the rest of the pass (R137). -/
theorem PassInv.recordSeed {ch : Channel} (h : PassInv ch) {o : Half}
    (ho : inBounds ch.cfg o = true) :
    PassInv (ch.recordSeed o) ∧ inBounds ch.cfg (ch.recordSeed o).firstAmp = true := by
  have hseed : inBounds ch.cfg (ch.recordSeed o).firstAmp = true := by
    by_cases hi : ch.idx = 0
    · rwa [Channel.recordSeed, if_pos hi]
    · rw [Channel.recordSeed, if_neg hi]
      exact h.seed (.inr hi)
  exact ⟨{ h with seed := fun _ => hseed }, hseed⟩

/-- One sample of either direction (R132, R134) keeps the invariant of the pass. -/
theorem PassInv.advance {ch : Channel} (h : PassInv ch) (p : Params) {hop0 : Int} (level : Int)
    (hcount : ch.idx.toNat + 1 ≤ ch.cfg.sampleCount.toNat)
    (hseed : inBounds ch.cfg ch.firstAmp = true)
    (h0 : minOf ch.cfg ≤ hop0 ∧ hop0 ≤ maxOf ch.cfg) : PassInv (ch.advance p hop0 level) := by
  rw [Channel.advance_eq]
  have hidx := toNat_idx_add_one hcount
  have hstep := nextStep_bounds level (cfgValid_stepMin_le h.valid) h.stepHigh
  exact {
    valid := h.valid
    stepLow := hstep.1
    stepHigh := hstep.2
    count := hidx.trans_le hcount
    seed := fun _ => hseed
    last := fun _ => inBounds_reconOf p ch level h0.1 h0.2
    second := fun h2 => h.last fun hz => by
      replace h2 : 2 ≤ (ch.idx + 1).toNat := h2
      rw [hidx, hz] at h2
      exact absurd h2 (by decide) }

theorem PassInv.quantStep {ch : Channel} (h : PassInv ch) (p : Params) {o : Half}
    (ho : inBounds ch.cfg o = true) (hcount : ch.idx.toNat + 1 ≤ ch.cfg.sampleCount.toNat) :
    PassInv (quantStep p ch o) := by
  obtain ⟨hrec, hseed⟩ := h.recordSeed ho
  exact hrec.advance p _ hcount hseed
    (predict_bounds (cfgValid_minOf_le h.valid) (fun _ => (inBounds_iff _ _).1 ho) h.last)

theorem PassInv.reconStep {ch : Channel} (h : PassInv ch) (p : Params) (hop : Nibble)
    (hd : ch.state = .decode) (hcount : ch.idx.toNat + 1 ≤ ch.cfg.sampleCount.toNat) :
    PassInv (reconStep p ch hop) := by
  have hseed := h.seed (.inl hd)
  exact h.advance p _ hcount hseed
    (predict_bounds (cfgValid_minOf_le h.valid) (fun _ => (inBounds_iff _ _).1 hseed) h.last)

/-! ### The updates of one channel -/

section Channel

variable {depth : Nat} {ch : Channel}

/-- R53, R216: a channel after reset. -/
theorem chanInv_wipe (depth : Nat) (ch : Channel) : ChanInv depth ch.wipe where
  errFault := by simp
  threshold := by simp
  runBelow := by simp
  doneClosed := by simp
  queue := by simp
  outputs := by simp
  pass := by simp

theorem ChanInv.err_eq_none (h : ChanInv depth ch) (hs : ch.state ≠ .fault) : ch.err = .none :=
  not_not.1 fun he => hs (h.errFault.2 he)

theorem ChanInv.emitAll (h : ChanInv depth ch) {ws : List Word}
    (hw : ∀ w ∈ ws, producedWord w = true) : ChanInv depth (ch.emitAll ws) :=
  { h with
    outputs := fun w hm => (List.mem_append.1 hm).elim (h.outputs w) (hw w)
    pass := fun hp => { h.pass hp with } }

theorem ChanInv.emit (h : ChanInv depth ch) {w : Word} (hw : producedWord w = true) :
    ChanInv depth (ch.emit w) :=
  h.emitAll (ws := [w]) (by simpa using hw)

theorem ChanInv.withSymCount (h : ChanInv depth ch) (k : Word) :
    ChanInv depth { ch with symCount := k } :=
  { h with pass := fun hp => { h.pass hp with } }

/-- R46, R162: a threshold of at least 8 and a run below it. -/
theorem ChanInv.withRun (h : ChanInv depth ch) {x n : Word} (hx : 8 ≤ x.toNat)
    (hn : n.toNat < x.toNat) : ChanInv depth { ch with xlen := x, run := n } :=
  { h with threshold := hx, runBelow := hn, pass := fun hp => { h.pass hp with } }

theorem ChanInv.withCmdQ (h : ChanInv depth ch) {queue : List Queued}
    (hq : queue.length ≤ depth) : ChanInv depth { ch with cmdQ := queue } :=
  { h with queue := hq, pass := fun hp => { h.pass hp with } }

theorem ChanInv.emitSym (h : ChanInv depth ch) (y : Byte) : ChanInv depth (ch.emitSym y) :=
  (h.emit (producedWord_outWord ..)).withSymCount _

theorem ChanInv.emitCenters (h : ChanInv depth ch) (n : Nat) : ChanInv depth (ch.emitCenters n) :=
  have hlit : ∀ w ∈ List.replicate n (symWord 0), producedWord w = true := fun _ hw =>
    (List.eq_of_mem_replicate hw).symm ▸ producedWord_outWord ..
  (h.emitAll hlit).withSymCount _

/-- R193: a fault has a code and ends the pass. -/
theorem ChanInv.enterFault (h : ChanInv depth ch) {code : ErrCode} (hc : code ≠ .none) :
    ChanInv depth (ch.enterFault code) :=
  { h with
    errFault := by simpa using hc
    doneClosed := fun _ => .inr rfl
    pass := by simp }

/-- R107, R195. -/
theorem ChanInv.abortPass (h : ChanInv depth ch) : ChanInv depth ch.abortPass :=
  { h with
    errFault := by simp
    doneClosed := by simp
    outputs := by simp
    pass := by simp }

/-- R105, R106: the end of a pass. -/
theorem ChanInv.closePass (h : ChanInv depth ch) (hs : ch.state ≠ .fault) :
    ChanInv depth { ch with state := .idle, done := true } :=
  { h with
    errFault := by simp [h.err_eq_none hs]
    doneClosed := fun _ => .inl rfl
    pass := by simp }

theorem ChanInv.noteWrite (h : ChanInv depth ch) (r : CfgReg) (old : Word) :
    ChanInv depth (ch.noteWrite r old) :=
  h.withCmdQ (by simpa using h.queue)

theorem ChanInv.chAfterRead (h : ChanInv depth ch) (r : ChReg) :
    ChanInv depth (chAfterRead ch r) := by
  cases r with
  | out =>
    exact { h with
      outputs := fun w hw => h.outputs w (List.mem_of_mem_tail hw)
      pass := fun hp => { h.pass hp with } }
  | _ => exact h

/-- R36, R47, R198: the queue stays within its depth. -/
theorem ChanInv.pushCmd (h : ChanInv depth ch) (w : Word) : ChanInv depth (pushCmd depth ch w) := by
  unfold Machine.pushCmd
  split
  · exact h.withCmdQ (by simpa using ‹ch.cmdQ.length < depth›)
  · split
    · exact h
    · exact h.enterFault (by decide)

/-- R40: the seed is written outside a pass only. -/
theorem ChanInv.withFirstAmp (h : ChanInv depth ch) (hs : seedWritable ch = true) (o : Half) :
    ChanInv depth { ch with firstAmp := o } := by
  have hclosed : ch.state = .idle ∨ ch.state = .fault := by simpa [seedWritable] using hs
  exact { h with pass := by rcases hclosed with hs | hs <;> simp [hs] }

theorem ChanInv.chWrite (h : ChanInv depth ch) (draw : Nat) (v : Word) (r : ChReg) :
    ChanInv depth (chWrite depth draw ch v r) := by
  cases r with
  | cmd => exact h.pushCmd v
  | firstAmp =>
    simp only [Machine.chWrite]
    split
    · next hp => exact h.withFirstAmp (Bool.and_eq_true _ _ ▸ hp).1 _
    · exact h
  | _ => exact h

/-! ### The commands as verdicts -/

/-- A verdict on a channel keeps the invariant: the channel it leaves has it, and what it raises is
a code. -/
def Verdict.Keeps (depth : Nat) : Verdict → Prop
  | .done ch => ChanInv depth ch
  | .raise code => code ≠ .none
  | .refuse _ => True

/-- R102 to R104: the pass that a START opens. -/
theorem ChanInv.startPass (h : ChanInv depth ch) (mode : PassMode) (c : PassConfig) :
    (startPass mode c ch).Keeps depth := by
  unfold Machine.startPass
  split_ifs with hs hv hb
  · exact ErrCode.noConfusion
  · exact ErrCode.noConfusion
  · exact ErrCode.noConfusion
  have hidle : ch.state ≠ .fault := by simp [not_not.1 hs]
  have hvalid : cfgValid c = true := by simpa using hv
  exact {
    errFault := by cases mode <;> simp [openState, h.err_eq_none hidle]
    threshold := by simp
    runBelow := by simp
    doneClosed := by simp
    queue := h.queue
    outputs := h.outputs
    pass := fun _ => {
      valid := hvalid
      stepLow := cfgValid_stepMin_le hvalid
      stepHigh := le_rfl
      count := by simp
      seed := by
        cases mode with
        | enc => simp [openState]
        | dec => exact fun _ => by simpa using hb
      last := by simp
      second := by simp } }

theorem ChanInv.endPass (h : ChanInv depth ch) : (endPass ch).Keeps depth := by
  have hx := h.threshold
  unfold Machine.endPass
  split
  · next hs => exact ((h.emitCenters _).withRun hx (by simp; omega)).closePass (by simp [hs])
  · next hs => exact h.closePass (by simp [hs])
  · exact ErrCode.noConfusion
  · exact ErrCode.noConfusion

/-- R109: what the sample limit admits. -/
theorem overCount_eq_false {k : Nat} (h : ¬ overCount ch k = true) :
    ch.idx.toNat + k ≤ ch.cfg.sampleCount.toNat := by
  simpa [overCount] using h

/-- QSTEP and its QREC word (R136). -/
theorem ChanInv.quantEmit (h : ChanInv depth ch) (p : Params) {o : Half} (hs : ch.state = .encode)
    (ho : inBounds ch.cfg o = true) (hcount : ch.idx.toNat + 1 ≤ ch.cfg.sampleCount.toNat) :
    ChanInv depth
      ((quantStep p ch o).emit (qrecWord (quantOut p ch o).1 (quantOut p ch o).2)) :=
  have hstep : ChanInv depth (quantStep p ch o) :=
    { h with pass := fun _ => (h.pass (.inl hs)).quantStep p ho hcount }
  hstep.emit (producedWord_outWord ..)

/-- RSTEP and its DREC word (R149). -/
theorem ChanInv.reconEmit (h : ChanInv depth ch) (p : Params) (hop : Nibble)
    (hs : ch.state = .decode) (hcount : ch.idx.toNat + 1 ≤ ch.cfg.sampleCount.toNat) :
    ChanInv depth (reconEmit p ch hop) :=
  have hstep : ChanInv depth (reconStep p ch hop) :=
    { h with pass := fun _ => (h.pass (.inr hs)).reconStep p hop hs hcount }
  hstep.emit (producedWord_outWord ..)

theorem ChanInv.qencOn (h : ChanInv depth ch) (p : Params) (o : Half) :
    (qencOn p o ch).Keeps depth := by
  unfold Machine.qencOn
  split_ifs with hs ho hcount
  · exact ErrCode.noConfusion
  · exact ErrCode.noConfusion
  · exact ErrCode.noConfusion
  · exact h.quantEmit p (not_not.1 hs) (by simpa using ho) (overCount_eq_false hcount)

theorem ChanInv.qdecOn (h : ChanInv depth ch) (p : Params) (hop : Nibble) :
    (qdecOn p hop ch).Keeps depth := by
  unfold Machine.qdecOn
  split_ifs with hs hh hcount
  · exact ErrCode.noConfusion
  · exact ErrCode.noConfusion
  · exact ErrCode.noConfusion
  · exact h.reconEmit p hop (not_not.1 hs) (overCount_eq_false hcount)

/-! ### The symbol codec (43_symbol_codec.md R160 to R166, R171, R172) -/

/-- R160, R177: the grow rule within the spec does not wrap. -/
theorem toNat_growX {ch : Channel} (h : growBeyondSpec ch ≠ true) :
    (growX ch.xlen).toNat = ch.xlen.toNat + 2 := by
  have hlt : ch.xlen.toNat + 2 < 2 ^ 32 := not_le.1 fun hge => h (decide_eq_true hge)
  rw [growX, BitVec.toNat_add]
  exact Nat.mod_eq_of_lt hlt

theorem toNat_relaxX (x : Word) : (relaxX x).toNat = (x.toNat + 9) / 2 := by
  have := x.isLt
  rw [relaxX, BitVec.toNat_ofNat, Nat.mod_eq_of_lt (by omega)]

/-- R162: the relax rule keeps the threshold at 8 or more. -/
theorem relaxX_low {x : Word} (h : 8 ≤ x.toNat) : 8 ≤ (relaxX x).toNat := by
  rw [toNat_relaxX]
  omega

theorem toNat_run_add_one {ch : Channel} (h : ch.run.toNat + 1 < ch.xlen.toNat) :
    (ch.run + 1).toNat = ch.run.toNat + 1 := by
  have := ch.xlen.isLt
  rw [BitVec.toNat_add]
  exact Nat.mod_eq_of_lt (by simp; omega)

/-- R161: the relax rule with the run closed. -/
theorem ChanInv.relax (h : ChanInv depth ch) :
    ChanInv depth { ch with xlen := relaxX ch.xlen, run := 0 } :=
  have hx := relaxX_low h.threshold
  h.withRun hx (by simp; omega)

/-- R166: one more center symbol in a run that it does not complete. -/
theorem ChanInv.growRun (h : ChanInv depth ch) (hr : ch.run.toNat + 1 < ch.xlen.toNat) :
    ChanInv depth { ch with run := ch.run + 1 } :=
  h.withRun h.threshold ((toNat_run_add_one hr).trans_lt hr)

theorem ChanInv.breakRun (h : ChanInv depth ch) : ChanInv depth (breakRun ch) := by
  unfold Machine.breakRun
  split
  · exact h
  · exact (h.emitCenters _).relax

theorem ChanInv.symEnc (h : ChanInv depth ch) (hop : Nibble) : (symEnc ch hop).Keeps depth := by
  have hx := h.threshold
  have hr := h.runBelow
  unfold Machine.symEnc
  split
  · trivial
  next hbeyond =>
  unfold symEncStep
  extract_lets y
  show ChanInv depth _
  split_ifs with hy hc
  · have hgrow : growBeyondSpec ch ≠ true := fun hg =>
      hbeyond (by simp [symEncBeyond, hc, hg, show rankOf ch.cfg hop = 0 from hy])
    have hx' := toNat_growX hgrow
    exact (h.emitSym _).withRun (by omega) (by simp; omega)
  · have hne : ch.run.toNat + 1 ≠ ch.xlen.toNat := by simpa [completesRun] using hc
    exact h.growRun (by omega)
  · exact h.breakRun.emitSym y

theorem ChanInv.sencOn (h : ChanInv depth ch) (hop : Nibble) : (sencOn hop ch).Keeps depth := by
  unfold Machine.sencOn
  split_ifs
  · exact ErrCode.noConfusion
  · exact ErrCode.noConfusion
  · exact h.symEnc hop

theorem ChanInv.encOn (h : ChanInv depth ch) (p : Params) (o : Half) :
    (encOn p o ch).Keeps depth := by
  unfold Machine.encOn
  split_ifs with hs ho hcount
  · exact ErrCode.noConfusion
  · exact ErrCode.noConfusion
  · exact ErrCode.noConfusion
  · exact (h.quantEmit p (not_not.1 hs) (by simpa using ho) (overCount_eq_false hcount)).symEnc _

theorem symDecCheck_ne_some_none (ch : Channel) (y : Byte) :
    symDecCheck ch y ≠ some .none := by
  unfold symDecCheck
  split_ifs <;> simp

/-- R172: a literal center symbol that passes the checks does not complete a run. -/
theorem symDecCheck_center (h : symDecCheck ch 0 = none) : ch.run.toNat + 1 < ch.xlen.toNat := by
  have hm : (0 : Byte) ≠ metaSym := by decide
  simp only [symDecCheck, if_neg hm, if_true] at h
  split_ifs at h
  omega

theorem ChanInv.symDecStep (h : ChanInv depth ch) {y : Byte} (hcheck : symDecCheck ch y = none)
    (hgrow : y = metaSym → growBeyondSpec ch ≠ true) : ChanInv depth (symDecStep ch y) := by
  have hx := h.threshold
  have hr := h.runBelow
  have hcounted := h.withSymCount (ch.symCount + 1)
  unfold Machine.symDecStep
  split_ifs with hm hy hrun
  · have hx' := toNat_growX (hgrow hm)
    exact hcounted.withRun (by omega) (show ch.run.toNat < _ by omega)
  · exact hcounted.growRun (symDecCheck_center (hy ▸ hcheck))
  · exact hcounted
  · exact hcounted.relax

theorem ChanInv.sdecOn (h : ChanInv depth ch) (y : Byte) : (sdecOn y ch).Keeps depth := by
  unfold Machine.sdecOn
  split
  · exact ErrCode.noConfusion
  split
  · next hcheck => exact fun hc => symDecCheck_ne_some_none ch y (hc ▸ hcheck)
  next hcheck =>
  split
  · trivial
  · next hb =>
    refine (h.symDecStep hcheck fun hm hg => hb ⟨hm, hg⟩).emitAll fun w hw => ?_
    · obtain ⟨hop, -, rfl⟩ := List.mem_map.1 hw
      exact producedWord_outWord ..

theorem length_symHops (ch : Channel) (y : Byte) : (symHops ch y).length = symHopCount ch y := by
  unfold symHops symHopCount
  split_ifs <;> simp

/-- R182, R184: the reconstructed samples of a symbol, within the sample limit. -/
theorem ChanInv.reconAll (p : Params) (hops : List Nibble) :
    ∀ {ch : Channel}, ChanInv depth ch → ch.state = .decode →
      ch.idx.toNat + hops.length ≤ ch.cfg.sampleCount.toNat →
      ChanInv depth (reconAll p ch hops) := by
  induction hops with
  | nil => exact fun h _ _ => h
  | cons hop hops ih =>
    intro ch h hs hcount
    rw [List.length_cons] at hcount
    have hidx : (Machine.reconEmit p ch hop).idx.toNat = ch.idx.toNat + 1 :=
      toNat_idx_add_one (ch := ch) (by omega)
    refine ih (h.reconEmit p hop hs (by omega)) hs ?_
    have hcfg : (Machine.reconEmit p ch hop).cfg = ch.cfg := rfl
    rw [hidx, hcfg]
    omega

/-- What SYMDEC leaves unchanged of the pass. -/
theorem symDecStep_frame (ch : Channel) (y : Byte) :
    (symDecStep ch y).state = ch.state ∧ (symDecStep ch y).idx = ch.idx ∧
      (symDecStep ch y).cfg = ch.cfg := by
  unfold symDecStep
  split_ifs <;> exact ⟨rfl, rfl, rfl⟩

theorem ChanInv.decOn (h : ChanInv depth ch) (p : Params) (y : Byte) :
    (decOn p y ch).Keeps depth := by
  unfold Machine.decOn
  split
  · exact ErrCode.noConfusion
  next hs =>
  split
  · next hcheck => exact fun hc => symDecCheck_ne_some_none ch y (hc ▸ hcheck)
  next hcheck =>
  split
  · exact ErrCode.noConfusion
  next hover =>
  have hcount := overCount_eq_false hover
  have hgrow : y = metaSym → growBeyondSpec ch ≠ true := fun hm hg => by
    have hlimit := ch.cfg.sampleCount.isLt
    have hbeyond : 2 ^ 32 ≤ ch.xlen.toNat + 2 := of_decide_eq_true hg
    rw [symHopCount, if_pos hm] at hcount
    omega
  obtain ⟨hstate, hidx, hcfg⟩ := symDecStep_frame ch y
  refine ChanInv.reconAll p _ (h.symDecStep hcheck hgrow) (hstate.trans (not_not.1 hs)) ?_
  rw [length_symHops, hidx, hcfg]
  exact hcount

/-- Every command keeps the invariant of its channel. -/
theorem ChanInv.verdictOf (h : ChanInv depth ch) (p : Params) (latch : PassConfig) (i : Instr) :
    (verdictOf p latch i ch).Keeps depth := by
  cases i with
  | nop _ => exact h
  | start mode => exact h.startPass mode latch
  | end_ => exact h.endPass
  | abort _ => exact h.abortPass
  | enc o => exact h.encOn p o
  | qenc o => exact h.qencOn p o
  | senc hop => exact h.sencOn hop
  | dec y => exact h.decOn p y
  | qdec hop => exact h.qdecOn p hop
  | sdec y => exact h.sdecOn y

end Channel

/-! ### The machine -/

section Machine

variable {s t : State}

/-- R53, R217. -/
theorem machineInv_reset : MachineInv State.reset where
  inv0 := chanInv_wipe _ Channel.reset
  inv1 := chanInv_wipe _ Channel.reset
  absent := fun _ => rfl
  legal := by decide

theorem MachineInv.chanInv (h : MachineInv s) (c : Chan) :
    ChanInv s.params.cmdqDepth.toNat (s.ch c) := by
  cases c with
  | ch0 => exact h.inv0
  | ch1 => exact h.inv1

/-- The invariant is about the parameters and the two channels. -/
theorem MachineInv.of_eq (h : MachineInv s) (hp : t.params = s.params) (h0 : t.ch0 = s.ch0)
    (h1 : t.ch1 = s.ch1) : MachineInv t where
  inv0 := by rw [hp, h0]; exact h.inv0
  inv1 := by rw [hp, h1]; exact h.inv1
  absent := by rw [hp, h1]; exact h.absent
  legal := by rw [hp]; exact h.legal

/-- A channel that the instance has may be replaced by one that keeps the invariant. -/
theorem MachineInv.setCh (h : MachineInv s) {c : Chan} (hc : s.present c = true) {ch : Channel}
    (hch : ChanInv s.params.cmdqDepth.toNat ch) : MachineInv (s.setCh c ch) := by
  cases c with
  | ch0 => exact { h with inv0 := hch }
  | ch1 =>
    have htwo : s.params.numChannels = .two := by simpa [State.present] using hc
    exact { h with inv1 := hch, absent := fun hone => by cases htwo.symm.trans hone }

/-- Taking a word from the queue (R47, R70). -/
theorem MachineInv.taken (h : MachineInv s) {c : Chan} (hc : s.present c = true) {q : Queued}
    {rest : List Queued} (hq : (s.ch c).cmdQ = q :: rest) : MachineInv (s.taken c q rest) := by
  have hlen : rest.length ≤ s.params.cmdqDepth.toNat := by
    have := (h.chanInv c).queue
    rw [hq, List.length_cons] at this
    omega
  exact (h.setCh hc ((h.chanInv c).withCmdQ hlen)).of_eq rfl rfl rfl

theorem present_taken (s : State) (c : Chan) (q : Queued) (rest : List Queued) :
    (s.taken c q rest).present (s.taken c q rest).active = s.present c := by
  cases c <;> rfl

theorem MachineInv.exec (h : MachineInv s) (hc : s.present s.active = true) {i : Instr}
    (ht : exec i s = .next t) : MachineInv t := by
  have hv := (h.chanInv s.active).verdictOf s.params s.latched i
  obtain ⟨d, -, ⟨-, rfl⟩ | ⟨ch, hdone, rfl⟩ | ⟨-, code, hraise, rfl⟩⟩ := exec_next ht
  · exact h.of_eq rfl rfl rfl
  · rw [hdone] at hv
    exact (h.setCh hc hv).of_eq rfl rfl rfl
  · rw [hraise] at hv
    exact (h.setCh hc ((h.chanInv s.active).enterFault hv)).of_eq rfl rfl rfl

/-- R84, R85. -/
theorem MachineInv.execIllegal (h : MachineInv s) (hc : s.present s.active = true)
    (ht : execIllegal s = .next t) : MachineInv t := by
  rcases onActive_next ht with ⟨-, rfl⟩ | ⟨-, ⟨ch, hdone, -⟩ | ⟨code, hraise, rfl⟩⟩
  · exact h
  · cases hdone
  · cases hraise
    exact h.setCh hc ((h.chanInv s.active).enterFault (by decide))

theorem MachineInv.engineStep (h : MachineInv s) {c : Chan} (ht : engineStep s c = .next t) :
    MachineInv t := by
  rcases engineStep_next ht with rfl | ⟨q, rest, hq, hc, ⟨i, -, hi⟩ | ⟨e, -, hi⟩⟩
  · exact h
  · exact (h.taken hc hq).exec (by rwa [present_taken]) hi
  · exact (h.taken hc hq).execIllegal (by rwa [present_taken]) hi

/-! ### The host -/

/-- R216: the reset of the block. -/
theorem MachineInv.resetBlock (h : MachineInv s) : MachineInv s.resetBlock where
  inv0 := chanInv_wipe _ _
  inv1 := chanInv_wipe _ _
  absent := fun hone => by
    show s.ch1.wipe = Channel.reset
    rw [h.absent hone]
    rfl
  legal := h.legal

theorem MachineInv.writeCfg (h : MachineInv s) (r : CfgReg) (v : Word) :
    MachineInv (s.writeCfg r v) where
  inv0 := h.inv0.noteWrite r _
  inv1 := h.inv1.noteWrite r _
  absent := fun hone => by
    show s.ch1.noteWrite r _ = Channel.reset
    rw [h.absent hone]
    rfl
  legal := h.legal

theorem globalRegAt_ne_chan (off : Nat) (c : Chan) (r : ChReg) :
    globalRegAt off ≠ .chan c r := by
  unfold globalRegAt
  split <;> exact Reg.noConfusion

/-- R50: an absent channel has no register in the window. -/
theorem present_of_regAt {off : Nat} {c : Chan} {r : ChReg}
    (hr : regAt s.params.numChannels off = .chan c r) : s.present c = true := by
  cases c with
  | ch0 => rfl
  | ch1 =>
    cases hn : s.params.numChannels with
    | two => simp [State.present, hn]
    | one =>
      rw [hn] at hr
      unfold regAt at hr
      split_ifs at hr
      · exact absurd hr (globalRegAt_ne_chan off _ _)
      · cases ho : chRegAt (off - 0x100) <;> simp [ho, regOfChan] at hr

theorem MachineInv.busRead (h : MachineInv s) (off : Nat) : MachineInv (busRead s off).2 := by
  unfold Machine.busRead
  cases hr : regAt s.params.numChannels off with
  | chan c r => exact h.setCh (present_of_regAt hr) ((h.chanInv c).chAfterRead r)
  | _ => exact h

theorem MachineInv.busWrite (h : MachineInv s) (off : Nat) (v : Word) :
    MachineInv (busWrite s off v) := by
  unfold Machine.busWrite
  cases hr : regAt s.params.numChannels off with
  | ctrl =>
    simp only [regWrite]
    split
    · exact h.resetBlock
    · exact h
  | cfg r => exact h.writeCfg r v
  | chan c r =>
    have hset := h.setCh (present_of_regAt hr) ((h.chanInv c).chWrite s.draws v r)
    cases r with
    | firstAmp => exact hset.of_eq rfl rfl rfl
    | _ => exact hset
  | _ => exact h

theorem MachineInv.hostStep (h : MachineInv s) (ht : hostStep s = .next t) : MachineInv t := by
  unfold Machine.hostStep at ht
  split at ht
  · cases ht
    exact h
  next e rest _ =>
  have hrest : MachineInv { s with host := rest } := h.of_eq rfl rfl rfl
  rcases hostEvent_next ht with ⟨off, rfl⟩ | ⟨off, v, rfl⟩ | rfl
  · exact (hrest.busRead off).of_eq rfl rfl rfl
  · exact hrest.busWrite off v
  · exact hrest.resetBlock

theorem MachineInv.step (h : MachineInv s) (ht : step s = .next t) : MachineInv t := by
  rcases step_next ht with rfl | ⟨a, sched, d, ha⟩
  · exact h
  have hmoved : MachineInv { s with schedule := sched, draws := d } := h.of_eq rfl rfl rfl
  cases a with
  | host => exact hmoved.hostStep ha
  | engine c => exact hmoved.engineStep ha

end Machine

/-- Settles O59: reset is the wiped state of both channels. -/
theorem invariantAtReset : Obligations.InvariantAtReset := machineInv_reset

/-- Settles O60: each command is a verdict that keeps its channel's invariant, and a step writes
only channels that the instance has. -/
theorem stepKeepsInvariant : Obligations.StepKeepsInvariant := fun _ _ h ht => h.step ht

end Sys2Proof.Machine

/-! SUPPORT. The register window (10_state.md R20 to R43; O46 to O49, O51, O52). From the inside
out: fields of a word, the window map in both directions, what each register reads and takes, then the
bus accesses. -/

namespace Sys2Proof.Machine

/-! ### Fields of a word (00_scope.md R11) -/

theorem getLsbD_field (w : Word) (lo width i : Nat) :
    (field w lo width).getLsbD i = (decide (i < width) && w.getLsbD (lo + i)) :=
  BitVec.getLsbD_extractLsb' lo width w i

theorem getLsbD_place {width : Nat} (v : BitVec width) (lo i : Nat) :
    (place v lo).getLsbD i = (decide (lo ≤ i ∧ i < 32) && v.getLsbD (i - lo)) := by
  by_cases hlo : lo ≤ i
  · by_cases hi : i < 32
    · simp [place, hlo, hi]
    · simp [place, hi]
  · simp [place, hlo, show i < lo by omega]

theorem field_or (a b : Word) (lo width : Nat) :
    field (a ||| b) lo width = field a lo width ||| field b lo width :=
  BitVec.extractLsb'_or

theorem field_zero_eq_setWidth (w : Word) {width : Nat} (h : width ≤ 32) :
    field w 0 width = w.setWidth width :=
  (BitVec.setWidth_eq_extractLsb' h).symm

theorem place_zero_eq_setWidth {width : Nat} (v : BitVec width) : place v 0 = v.setWidth 32 :=
  BitVec.shiftLeft_zero _

theorem getLsbD_eq_of_field_eq_ofBool {w : Word} {i : Nat} {b : Bool}
    (h : field w i 1 = BitVec.ofBool b) : w.getLsbD i = b := by
  have hbit := congrArg (·.getLsbD 0) h
  simpa only [getLsbD_field, BitVec.getLsbD_ofBool, Nat.zero_lt_one, decide_true, Bool.true_and,
    Nat.add_zero] using hbit

theorem field_place_same {width : Nat} (v : BitVec width) {lo : Nat} (h : lo + width ≤ 32) :
    field (place v lo) lo width = v := by
  apply BitVec.eq_of_getLsbD_eq
  intro i hi
  rw [getLsbD_field, getLsbD_place, Nat.add_sub_cancel_left]
  simp [hi, show lo + i < 32 by omega]

/-- A field that starts behind a placed one, or ends before it, shows none of its bits. -/
theorem field_place_disjoint {width : Nat} (v : BitVec width) {lo lo' width' : Nat}
    (h : lo + width ≤ lo' ∨ lo' + width' ≤ lo) : field (place v lo) lo' width' = 0 := by
  apply BitVec.eq_of_getLsbD_eq
  intro i hi
  rcases h with h | h
  · simp [getLsbD_field, getLsbD_place, BitVec.getLsbD_of_ge v (lo' + i - lo) (by omega)]
  · simp [getLsbD_field, getLsbD_place, show ¬ lo ≤ lo' + i by omega]

/-- Putting a field back where it was taken keeps its bits and clears the others. -/
theorem place_field (w : Word) (lo width : Nat) :
    place (field w lo width) lo = w &&& place (BitVec.allOnes width) lo := by
  apply BitVec.eq_of_getLsbD_eq
  intro i hi
  rw [BitVec.getLsbD_and, getLsbD_place, getLsbD_place, getLsbD_field, BitVec.getLsbD_allOnes]
  by_cases hlo : lo ≤ i
  · simp [hlo, hi, Bool.and_comm]
  · simp [hlo]

/-! ### The window map (10_state.md R20)

`regAt` finds the register of an offset. Each register's own offset says the same the other way
round. -/

def CfgReg.offset : CfgReg → Nat
  | .mode => 0x010
  | .exp => 0x014
  | .rfact => 0x018
  | .maxr => 0x01C
  | .step => 0x020
  | .stepDec => 0x024
  | .bounds => 0x028
  | .count => 0x02C
  | .prioLo => 0x030
  | .prioHi => 0x034

/-- The offset from the channel's base. -/
def ChReg.offset : ChReg → Nat
  | .cmd => 0x00
  | .out => 0x04
  | .status => 0x08
  | .firstAmp => 0x0C
  | .symCount => 0x10
  | .index => 0x14
  | .step => 0x18
  | .recon => 0x1C
  | .xlen => 0x20
  | .run => 0x24

def Chan.base : Chan → Nat
  | .ch0 => 0x100
  | .ch1 => 0x140

/-- The offset of a register in the window. Many offsets are reserved: the first of them stands for
all. -/
def Reg.offset : Reg → Nat
  | .id => 0x000
  | .hwcfg => 0x004
  | .ctrl => 0x008
  | .cfg r => r.offset
  | .chan c r => c.base + r.offset
  | .reserved => 0x00C

@[simp] theorem Chan.base_ch0 : Chan.base .ch0 = 0x100 := rfl

@[simp] theorem Chan.base_ch1 : Chan.base .ch1 = 0x140 := rfl

theorem CfgReg.offset_bounds (r : CfgReg) : 0x010 ≤ r.offset ∧ r.offset ≤ 0x034 := by
  cases r <;> decide

theorem ChReg.offset_le (r : ChReg) : r.offset ≤ 0x24 := by cases r <;> decide

theorem globalRegAt_cfgOffset (r : CfgReg) : globalRegAt r.offset = .cfg r := by cases r <;> rfl

theorem chRegAt_offset (r : ChReg) : chRegAt r.offset = some r := by cases r <;> rfl

theorem offset_of_globalRegAt {off : Nat} (h : globalRegAt off ≠ .reserved) :
    off = (globalRegAt off).offset := by
  unfold globalRegAt at h ⊢
  split at h <;> first | rfl | exact absurd rfl h

theorem offset_of_chRegAt {off : Nat} {r : ChReg} (h : chRegAt off = some r) : off = r.offset := by
  unfold chRegAt at h
  split at h <;> cases h <;> rfl

theorem regAt_cfgOffset (n : NumChannels) (r : CfgReg) : regAt n r.offset = .cfg r := by
  have := r.offset_bounds
  unfold regAt
  rw [if_pos (by omega), globalRegAt_cfgOffset]

theorem regAt_chanOffset {s : State} {c : Chan} (hc : s.present c = true) (r : ChReg) :
    regAt s.params.numChannels (c.base + r.offset) = .chan c r := by
  have := r.offset_le
  cases c with
  | ch0 =>
    unfold regAt
    rw [Chan.base_ch0, if_neg (by omega), if_pos (by omega), Nat.add_sub_cancel_left,
      chRegAt_offset, regOfChan]
  | ch1 =>
    have htwo : s.params.numChannels = .two := by simpa [State.present] using hc
    unfold regAt
    rw [Chan.base_ch1, if_neg (by omega), if_neg (by omega), if_pos (by omega), htwo,
      Nat.add_sub_cancel_left, chRegAt_offset, regOfChan]

theorem offset_of_regOfChan {c : Chan} {o : Nat} (h : regOfChan c (chRegAt o) ≠ .reserved) :
    c.base + o = (regOfChan c (chRegAt o)).offset := by
  cases ho : chRegAt o with
  | none => exact absurd (by rw [ho, regOfChan]) h
  | some r => rw [offset_of_chRegAt ho, regOfChan, Reg.offset]

/-- A register lies at its own offset only. -/
theorem offset_of_regAt {n : NumChannels} {off : Nat} {reg : Reg} (h : regAt n off = reg)
    (hreg : reg ≠ .reserved) : off = reg.offset := by
  subst h
  unfold regAt at hreg ⊢
  split_ifs at hreg ⊢ with hglobal h0 h1
  · exact offset_of_globalRegAt hreg
  · rw [← offset_of_regOfChan hreg, Chan.base_ch0]
    omega
  · cases n with
    | one => exact absurd rfl hreg
    | two =>
      rw [← offset_of_regOfChan hreg, Chan.base_ch1]
      omega
  · exact absurd rfl hreg

/-- R20, R34: the offsets of the configuration hold configuration registers and nothing else. -/
theorem regAt_of_cfgRange {n : NumChannels} {off : Nat} (hlo : 0x010 ≤ off) (hhi : off ≤ 0x034) :
    regAt n off = .reserved ∨ ∃ r, regAt n off = .cfg r ∧ off = r.offset := by
  cases hreg : regAt n off with
  | reserved => exact .inl rfl
  | cfg r => exact .inr ⟨r, rfl, offset_of_regAt hreg (by simp)⟩
  | chan c r =>
    have hoff := offset_of_regAt hreg (by simp)
    cases c <;> simp only [Reg.offset, Chan.base] at hoff <;> omega
  | _ =>
    have hoff := offset_of_regAt hreg (by simp)
    simp only [Reg.offset] at hoff
    omega

/-! ### Bus accesses by the register they reach -/

theorem busRead_of_regAt {s : State} {off : Nat} {reg : Reg}
    (h : regAt s.params.numChannels off = reg) :
    busRead s off = (regRead s reg, regAfterRead s reg) := by rw [busRead, h]

theorem busWrite_of_regAt {s : State} {off : Nat} {reg : Reg}
    (h : regAt s.params.numChannels off = reg) (v : Word) :
    busWrite s off v = regWrite s v reg := by rw [busWrite, h]

/-- R37, R64: no channel register but `CH_OUT` changes anything when it is read. -/
theorem busRead_chan {s : State} {c : Chan} (hc : s.present c = true) {r : ChReg} (hr : r ≠ .out) :
    busRead s (c.base + r.offset) = (chRead (s.ch c) r, s) := by
  have hkeep : chAfterRead (s.ch c) r = s.ch c := by
    cases r with
    | out => exact absurd rfl hr
    | _ => rfl
  rw [busRead_of_regAt (regAt_chanOffset hc r), regRead, regAfterRead, hkeep, State.setCh_self]

theorem busRead_cfg (s : State) (r : CfgReg) : busRead s r.offset = (cfgRead s.live r, s) :=
  busRead_of_regAt (regAt_cfgOffset _ r)

theorem busWrite_cfg (s : State) (r : CfgReg) (v : Word) :
    busWrite s r.offset v = s.writeCfg r v :=
  busWrite_of_regAt (regAt_cfgOffset _ r) v

theorem busRead_reserved {s : State} {off : Nat}
    (h : regAt s.params.numChannels off = .reserved) : busRead s off = (0, s) :=
  busRead_of_regAt h

theorem busWrite_reserved {s : State} {off : Nat}
    (h : regAt s.params.numChannels off = .reserved) (v : Word) : busWrite s off v = s :=
  busWrite_of_regAt h v

/-! ### Read-only registers (R21, R22, R38 to R43) -/

/-- R22. -/
theorem field_hwcfgWord (p : Params) :
    field (hwcfgWord p) 0 2 = NumChannels.code p.numChannels ∧ field (hwcfgWord p) 2 2 = 0 ∧
    field (hwcfgWord p) 4 4 = 15 ∧ field (hwcfgWord p) 8 8 = p.cmdqDepth ∧
    field (hwcfgWord p) 16 8 = p.outqDepth ∧ field (hwcfgWord p) 24 8 = 0 := by
  simp [hwcfgWord, field_or, field_place_same, field_place_disjoint]

/-- R38. -/
theorem field_statusWord (ch : Channel) :
    field (statusWord ch) 0 2 = ch.state.code ∧
    field (statusWord ch) 2 1 = BitVec.ofBool (busyOf ch) ∧
    field (statusWord ch) 3 1 = BitVec.ofBool ch.done ∧
    field (statusWord ch) 4 4 = ch.err.code ∧
    field (statusWord ch) 8 1 = BitVec.ofBool (inChainOf ch) ∧
    field (statusWord ch) 9 1 = BitVec.ofBool (lastSmallOf ch) ∧
    field (statusWord ch) 10 6 = 0 ∧
    field (statusWord ch) 16 8 = cmdqLevelOf ch ∧
    field (statusWord ch) 24 8 = outqLevelOf ch := by
  simp [statusWord, field_or, field_place_same, field_place_disjoint]

/-- R42. -/
theorem chRead_recon (ch : Channel) :
    chRead ch .recon = ch.r1.setWidth 32 ||| ch.r2.setWidth 32 <<< 16 := by
  rw [chRead, place_zero_eq_setWidth, place]

/-- Settles O46: each read is the register of its offset, and the fields of `HWCFG` and of
`CH_STATUS` are the ones placed there. -/
theorem readOnlyRegisters : Obligations.ReadOnlyRegisters := by
  intro s
  refine ⟨rfl, ⟨rfl, field_hwcfgWord s.params⟩, fun c hc => ?_⟩
  intro base ch status
  have hbase : base = c.base := by cases c <;> rfl
  have hread : ∀ r : ChReg, r ≠ .out → busRead s (base + r.offset) = (chRead ch r, s) :=
    fun r hr => hbase ▸ busRead_chan hc hr
  have hstatus : busRead s (base + 0x08) = (statusWord ch, s) := hread .status (by decide)
  obtain ⟨hstate, hbusy, hdone, herr, hchain, hsmall, hres, hcmdq, houtq⟩ := field_statusWord ch
  refine ⟨?_, ?_, hread .symCount (by decide), hread .index (by decide), ?_, ?_,
    hread .xlen (by decide), hread .run (by decide)⟩
  · simp only [status, hstatus]
    exact ⟨trivial, hstate, getLsbD_eq_of_field_eq_ofBool hbusy,
      getLsbD_eq_of_field_eq_ofBool hdone, herr, getLsbD_eq_of_field_eq_ofBool hchain,
      getLsbD_eq_of_field_eq_ofBool hsmall, hres, hcmdq, houtq⟩
  · rw [← place_zero_eq_setWidth]
    exact hread .firstAmp (by decide)
  · rw [← place_zero_eq_setWidth]
    exact hread .step (by decide)
  · rw [← chRead_recon]
    exact hread .recon (by decide)

/-! ### Configuration registers (R24 to R33, R52) -/

/-- The ten registers in the order of the window. -/
def CfgReg.all : List CfgReg :=
  [.mode, .exp, .rfact, .maxr, .step, .stepDec, .bounds, .count, .prioLo, .prioHi]

/-- The defined bits of a configuration register (R24 to R33). -/
def CfgReg.mask : CfgReg → Word
  | .mode => 0x0007010F
  | .exp => 0x0000FFFF
  | .rfact => 0xFFFFFFFF
  | .maxr => 0xFFFFFFFF
  | .step => 0xFFFFFFFF
  | .stepDec => 0x0000FFFF
  | .bounds => 0xFFFFFFFF
  | .count => 0x7FFFFFFF
  | .prioLo => 0xFFFFFFFF
  | .prioHi => 0x0FFFFFFF

theorem PredictorMode.bit_ofBit (b : BitVec 1) : PredictorMode.bit (PredictorMode.ofBit b) = b := by
  revert b
  decide

/-- R52: no legalisation, every defined bit is kept. -/
theorem cfgRead_cfgWrite_same (c : PassConfig) (v : Word) (r : CfgReg) :
    cfgRead (cfgWrite c v r) r = v &&& r.mask := by
  have hall : v = v &&& 0xFFFFFFFF := (BitVec.and_allOnes (x := v)).symm
  cases r with
  | rfact => exact hall
  | maxr => exact hall
  | prioLo => exact hall
  | _ =>
    simp only [cfgRead, cfgWrite, PredictorMode.bit_ofBit, place_field,
      ← BitVec.and_or_distrib_left]
    rfl

theorem cfgRead_cfgWrite_other (c : PassConfig) (v : Word) {r r' : CfgReg} (h : r' ≠ r) :
    cfgRead (cfgWrite c v r) r' = cfgRead c r' := by
  cases r <;> cases r' <;> first | rfl | exact absurd rfl h

/-- Settles O47: a write changes the fields of its own register alone, and they come back masked. -/
theorem configReadBack : Obligations.ConfigReadBack := by
  intro s v off mask hmem
  obtain ⟨r, -, heq⟩ : ∃ r ∈ CfgReg.all, (r.offset, r.mask) = (off, mask) := List.mem_map.1 hmem
  obtain ⟨rfl, rfl⟩ := Prod.mk.inj heq
  rw [busWrite_cfg]
  refine ⟨by rw [busRead_cfg]; exact cfgRead_cfgWrite_same _ _ _, fun other hlo hhi hne => ?_⟩
  rcases regAt_of_cfgRange (n := s.params.numChannels) hlo hhi with hres | ⟨r', -, rfl⟩
  · rw [busRead_reserved hres, busRead_reserved (s := s.writeCfg r v) hres]
  · have hr : r' ≠ r := fun h => hne (congrArg CfgReg.offset h)
    rw [busRead_cfg, busRead_cfg]
    exact cfgRead_cfgWrite_other _ _ hr

/-! ### A configuration write and the words that wait (R44, R224) -/

/-- R82, R85: the words that are a START. -/
theorem Queued.isStart_iff (q : Queued) :
    q.isStart = true ↔ field q.word 28 4 = 1 ∧ field q.word 1 27 = 0 := by
  unfold Queued.isStart decode
  by_cases hopc : field q.word 28 4 = 1
  ·     by_cases hres : field q.word 1 27 = 0#27 <;> simp [hopc, hres]
  · simp only [hopc, if_false, false_and, iff_false]
    split_ifs <;> simp

theorem Queued.word_noteWrite (r : CfgReg) (old : Word) (q : Queued) :
    (q.noteWrite r old).word = q.word := by
  unfold Queued.noteWrite
  split <;> rfl

theorem Queued.noteWrite_eq (r : CfgReg) (old : Word) (q : Queued) :
    q.noteWrite r old =
      if field q.word 28 4 = 1 ∧ field q.word 1 27 = 0 then
        { q with raced := q.raced ++ [(r, old)] }
      else q :=
  if_congr q.isStart_iff rfl rfl

theorem Channel.words_noteWrite (ch : Channel) (r : CfgReg) (old : Word) :
    (ch.noteWrite r old).cmdQ.map (·.word) = ch.cmdQ.map (·.word) := by
  simp [Function.comp_def, Queued.word_noteWrite]

/-- Settles O48: all that a configuration write does to a channel is the note in its queue. -/
theorem configWriteKeepsPasses : Obligations.ConfigWriteKeepsPasses := by
  intro s v off c t
  refine ⟨fun hlo hhi => ?_, fun r hmem => ?_⟩
  · rcases regAt_of_cfgRange (n := s.params.numChannels) hlo hhi with hres | ⟨r, -, rfl⟩
    · have ht : t = s := busWrite_reserved hres v
      rw [ht]
      exact ⟨rfl, rfl⟩
    · have ht : t.ch c = (s.ch c).noteWrite r (cfgRead s.live r) := by
        rw [← State.ch_writeCfg, ← busWrite_cfg]
      rw [ht]
      exact ⟨rfl, (s.ch c).words_noteWrite r _⟩
  · obtain ⟨r', -, heq⟩ : ∃ r' ∈ CfgReg.all, (r'.offset, r') = (off, r) := List.mem_map.1 hmem
    obtain ⟨rfl, rfl⟩ := Prod.mk.inj heq
    have ht : t.ch c = (s.ch c).noteWrite r' (busRead s r'.offset).1 := by
      rw [busRead_cfg, ← State.ch_writeCfg, ← busWrite_cfg]
    rw [ht, Channel.noteWrite_cmdQ, funext (Queued.noteWrite_eq r' _)]

/-! ### Offsets that ignore writes (R34, R50) -/

/-- The offsets that hold no register, those of an absent channel among them. -/
theorem regAt_eq_reserved {s : State} {off : Nat}
    (h : off = 0x00C ∨ 0x038 ≤ off ∧ off < 0x100 ∨ 0x128 ≤ off ∧ off < 0x140 ∨
      0x168 ≤ off ∧ off < 0x200 ∨
      s.params.numChannels = .one ∧ 0x140 ≤ off ∧ off < 0x180) :
    regAt s.params.numChannels off = .reserved := by
  cases hreg : regAt s.params.numChannels off with
  | reserved => rfl
  | cfg r =>
    have hoff : off = r.offset := offset_of_regAt hreg (by simp)
    have := r.offset_bounds
    omega
  | chan c r =>
    have hoff : off = c.base + r.offset := offset_of_regAt hreg (by simp)
    have hpresent := present_of_regAt hreg
    have := r.offset_le
    cases c with
    | ch0 =>
      rw [Chan.base_ch0] at hoff
      omega
    | ch1 =>
      have htwo : s.params.numChannels = .two := by simpa [State.present] using hpresent
      rw [Chan.base_ch1] at hoff
      simp only [htwo, reduceCtorEq, false_and, or_false] at h
      omega
  | _ =>
    have hoff := offset_of_regAt hreg (by simp)
    rw [Reg.offset] at hoff
    omega

/-- R36 to R43, R65: `CH_CMD` and `CH_FIRST_AMP` are the channel registers that take a write. -/
theorem regWrite_chan_readOnly (s : State) (v : Word) (c : Chan) {r : ChReg} (hcmd : r ≠ .cmd)
    (hamp : r ≠ .firstAmp) : regWrite s v (.chan c r) = s := by
  cases r with
  | cmd => exact absurd rfl hcmd
  | firstAmp => exact absurd rfl hamp
  | _ => exact s.setCh_self c

/-- A write that changes something reaches `CTRL`, the configuration, `CH_CMD` or `CH_FIRST_AMP`. -/
theorem offset_of_busWrite_ne {s : State} {off : Nat} {v : Word} (h : busWrite s off v ≠ s) :
    off = 0x008 ∨ 0x010 ≤ off ∧ off ≤ 0x034 ∨
      ∃ c : Chan, off = c.base + ChReg.cmd.offset ∨ off = c.base + ChReg.firstAmp.offset := by
  cases hreg : regAt s.params.numChannels off with
  | ctrl => exact .inl (offset_of_regAt hreg (by simp))
  | cfg r =>
    have hoff : off = r.offset := offset_of_regAt hreg (by simp)
    exact .inr (.inl (hoff ▸ r.offset_bounds))
  | chan c r =>
    have hoff : off = c.base + r.offset := offset_of_regAt hreg (by simp)
    by_cases hcmd : r = .cmd
    · exact .inr (.inr ⟨c, .inl (hcmd ▸ hoff)⟩)
    by_cases hamp : r = .firstAmp
    · exact .inr (.inr ⟨c, .inr (hamp ▸ hoff)⟩)
    · exact absurd ((busWrite_of_regAt hreg v).trans (regWrite_chan_readOnly s v c hcmd hamp)) h
  | _ => exact absurd (busWrite_of_regAt hreg v) h

/-- Settles O49: nothing lies at a reserved offset, and no read-only register lies at an offset that
takes a write. -/
theorem reservedAndReadOnly : Obligations.ReservedAndReadOnly := by
  intro s v off
  refine ⟨fun h => ?_, fun h => ?_⟩
  · have hres := regAt_eq_reserved h
    exact ⟨busRead_reserved hres, busWrite_reserved hres v⟩
  · by_contra hne
    rcases offset_of_busWrite_ne hne with hoff | hoff | ⟨c, hoff⟩
    · omega
    · omega
    · cases c <;> simp only [Chan.base, ChReg.offset] at hoff <;> omega

/-! ### `CH_CMD` (R36, R198) -/

theorem pushCmd_of_room {depth : Nat} {ch : Channel} (h : ch.cmdQ.length < depth) (w : Word) :
    pushCmd depth ch w = { ch with cmdQ := ch.cmdQ ++ [⟨w, []⟩] } :=
  if_pos h

theorem pushCmd_of_full {depth : Nat} {ch : Channel} (h : depth ≤ ch.cmdQ.length)
    (hs : ch.state ≠ .fault) (w : Word) : pushCmd depth ch w = ch.enterFault .overflow := by
  rw [pushCmd, if_neg (by omega), if_neg hs]

theorem pushCmd_of_full_in_fault {depth : Nat} {ch : Channel} (h : depth ≤ ch.cmdQ.length)
    (hs : ch.state = .fault) (w : Word) : pushCmd depth ch w = ch := by
  rw [pushCmd, if_neg (by omega), if_pos hs]

/-- Settles O51, by what `pushCmd` does with room in the queue and without. -/
theorem commandWrite : Obligations.CommandWrite := by
  intro s c v hc off ch depth
  have hoff : off = c.base + ChReg.cmd.offset := by cases c <;> rfl
  have hwrite : busWrite s off v = s.setCh c (pushCmd depth ch v) :=
    hoff ▸ busWrite_of_regAt (regAt_chanOffset hc .cmd) v
  rw [hwrite]
  refine ⟨fun hroom => ?_, fun hfull hs => ?_, fun hfull hs => ?_, ?_⟩
  · rw [pushCmd_of_room hroom]
  · rw [pushCmd_of_full hfull hs, Channel.enterFault]
  · rw [pushCmd_of_full_in_fault hfull hs, State.setCh_self]
  · exact hoff ▸ busRead_chan hc (r := .cmd) (by decide)

/-! ### `CH_FIRST_AMP` (R40, R225) -/

theorem seedPerformed_in_pass {ch : Channel} (h : ch.state = .encode ∨ ch.state = .decode)
    (draw : Nat) : seedPerformed ch draw = false := by
  rcases h with h | h <;> simp [seedPerformed, seedWritable, h]

theorem seedPerformed_of_empty {ch : Channel} (h : ch.state = .idle ∨ ch.state = .fault)
    (hq : ch.cmdQ = []) (draw : Nat) : seedPerformed ch draw = true := by
  simp [seedPerformed, seedWritable, busyOf, h, hq]

theorem ch_busWrite_firstAmp {s : State} {c : Chan} (hc : s.present c = true) (v : Word) :
    (busWrite s (c.base + ChReg.firstAmp.offset) v).ch c =
      if seedPerformed (s.ch c) s.draws then { s.ch c with firstAmp := v.setWidth 16 }
      else s.ch c := by
  rw [busWrite_of_regAt (regAt_chanOffset hc .firstAmp), ← field_zero_eq_setWidth v (by decide)]
  cases c <;> rfl

/-- Settles O52: whether the write is performed is `seedPerformed`, a draw only where commands
wait outside a pass. -/
theorem firstAmpWrite : Obligations.FirstAmpWrite := by
  intro s c v hc off ch after performed
  have hoff : off = c.base + ChReg.firstAmp.offset := by cases c <;> rfl
  have hafter : after = if seedPerformed ch s.draws then performed else ch :=
    (congrArg (fun o => (busWrite s o v).ch c) hoff).trans (ch_busWrite_firstAmp hc v)
  rw [hafter]
  refine ⟨fun hpass => ?_, fun hclosed hq => ?_, fun _ => ?_⟩
  · simp [seedPerformed_in_pass hpass]
  · simp [seedPerformed_of_empty hclosed hq]
  · exact ite_eq_or_eq _ performed ch

end Sys2Proof.Machine

/-! SUPPORT. The memory model (20_memory.md R60 to R79; O11, O50, O55 to O57): what an access may be,
what a read changes, what a START latches, and who takes a step. -/

namespace Sys2Proof.Machine

/-! ### What an access may be (R61, R62, I3) -/

theorem offsetOfAccess_of_narrow {s : State} {width : Width} {off : Nat} (hoff : off < 0x200)
    (hw : width ≠ .word) :
    offsetOfAccess s width (s.params.blockBase + off) = .error .narrowAccess := by
  rw [offsetOfAccess, if_neg (by omega), if_pos hw]

theorem offsetOfAccess_of_misaligned {s : State} {off : Nat} (hoff : off < 0x200)
    (ha : off % 4 ≠ 0) :
    offsetOfAccess s .word (s.params.blockBase + off) = .error .misalignedAccess := by
  rw [offsetOfAccess, if_neg (by omega), if_neg (by simp), Nat.add_sub_cancel_left, if_pos ha]

theorem offsetOfAccess_of_aligned {s : State} {off : Nat} (hoff : off < 0x200)
    (ha : off % 4 = 0) : offsetOfAccess s .word (s.params.blockBase + off) = .ok off := by
  rw [offsetOfAccess, if_neg (by omega), if_neg (by simp), Nat.add_sub_cancel_left,
    if_neg (by simpa using ha)]

theorem hostEvent_of_error {s : State} {width : Width} {addr : Nat} {why : Refusal}
    (h : offsetOfAccess s width addr = .error why) (v : Word) :
    hostEvent s (.read width addr) = .refused why ∧
      hostEvent s (.write width addr v) = .refused why := by
  simp [hostEvent, h]

theorem hostEvent_of_ok {s : State} {width : Width} {addr off : Nat}
    (h : offsetOfAccess s width addr = .ok off) (v : Word) :
    hostEvent s (.read width addr) =
        .next { (busRead s off).2 with readLog := s.readLog ++ [(busRead s off).1] } ∧
      hostEvent s (.write width addr v) = .next (busWrite s off v) := by
  simp [hostEvent, h]

/-- Settles O55: the offset of the access decides for reads and writes alike. -/
theorem accessForms : Obligations.AccessForms := by
  intro s width off v hoff addr
  refine ⟨fun hw => ?_, ?_, ?_⟩
  · exact hostEvent_of_error (offsetOfAccess_of_narrow hoff hw) v
  · rintro rfl ha
    exact hostEvent_of_error (offsetOfAccess_of_misaligned hoff ha) v
  · rintro rfl ha
    exact hostEvent_of_ok (offsetOfAccess_of_aligned hoff ha) v

/-! ### What a read changes (R37, R64) -/

theorem regAfterRead_of_ne_out (s : State) {reg : Reg} (h : ∀ c, reg ≠ .chan c .out) :
    regAfterRead s reg = s := by
  cases reg with
  | chan c r =>
    have hkeep : chAfterRead (s.ch c) r = s.ch c := by
      cases r with
      | out => exact absurd rfl (h c)
      | _ => rfl
    rw [regAfterRead, hkeep, State.setCh_self]
  | _ => rfl

/-- R50: only a present channel has a `CH_OUT`, at that register's own offset. -/
theorem out_of_regAt {s : State} {off : Nat} {c : Chan}
    (h : regAt s.params.numChannels off = .chan c .out) :
    s.present c = true ∧ off = c.base + ChReg.out.offset :=
  ⟨present_of_regAt h, offset_of_regAt h (by simp)⟩

/-- The read of `CH_OUT` takes the head of the queue, and an empty queue stays empty. -/
theorem busRead_out {s : State} {c : Chan} (hc : s.present c = true) :
    busRead s (c.base + ChReg.out.offset) =
      ((s.ch c).outQ.headD 0, s.setCh c { s.ch c with outQ := (s.ch c).outQ.tail }) :=
  busRead_of_regAt (regAt_chanOffset hc .out)

theorem busRead_out_cons {s : State} {c : Chan} (hc : s.present c = true) {w : Word}
    {ws : List Word} (hq : (s.ch c).outQ = w :: ws) :
    busRead s (c.base + ChReg.out.offset) = (w, s.setCh c { s.ch c with outQ := ws }) := by
  rw [busRead_out hc, hq, List.headD_cons, List.tail_cons]

theorem busRead_out_nil {s : State} {c : Chan} (hc : s.present c = true)
    (hq : (s.ch c).outQ = []) : busRead s (c.base + ChReg.out.offset) = (0, s) := by
  have hkeep : { s.ch c with outQ := (s.ch c).outQ.tail } = s.ch c := by
    rw [hq, List.tail_nil, ← hq]
  rw [busRead_out hc, hkeep, State.setCh_self, hq, List.headD_nil]

/-- Settles O50: `CH_OUT` of a present channel is the one register that a read changes. -/
theorem onlyOutputReadPops : Obligations.OnlyOutputReadPops := by
  intro s
  have hc1 : s.params.numChannels = .two → s.present .ch1 = true := by simp [State.present]
  refine ⟨fun off h0 h1 => ?_, fun w ws hq => ?_, fun hq => ?_, fun h2 w ws hq => ?_,
    fun h2 hq => ?_⟩
  · refine regAfterRead_of_ne_out s fun c hreg => ?_
    obtain ⟨hc, hoff⟩ := out_of_regAt hreg
    cases c with
    | ch0 => exact h0 hoff
    | ch1 => simp [State.present, h1 hoff] at hc
  · exact busRead_out_cons (c := .ch0) rfl hq
  · exact busRead_out_nil (c := .ch0) rfl hq
  · exact busRead_out_cons (hc1 h2) hq
  · exact busRead_out_nil (hc1 h2) hq

/-! ### What a START latches (R77, R224) -/

/-- Whatever the draws, a register keeps its value or has that of one of its own records. -/
theorem cfgRead_withRaces (r : CfgReg) (races : List (CfgReg × Word)) (c : PassConfig) (d : Nat) :
    cfgRead (withRaces c races d) r = cfgRead c r ∨
      ∃ old, (r, old) ∈ races ∧ cfgRead (withRaces c races d) r = old &&& r.mask := by
  induction races generalizing c d with
  | nil => exact .inl rfl
  | cons race rest ih =>
    obtain ⟨r', old⟩ := race
    rw [withRaces]
    generalize hc' : (if Config.freeLatch d then cfgWrite c old r' else c) = c'
    rcases ih c' (d + 1) with hkept | ⟨old', hmem, hold⟩
    · rw [hkept, ← hc']
      split
      · by_cases hr : r = r'
        · subst hr
          exact .inr ⟨old, List.mem_cons_self, cfgRead_cfgWrite_same c old r⟩
        · exact .inl (cfgRead_cfgWrite_other c old hr)
      · exact .inl rfl
    · exact .inr ⟨old', List.mem_cons_of_mem _ hmem, hold⟩

/-- Settles O11: the latch is the fold of the race record over the live registers. -/
theorem startLatchDraw : Obligations.StartLatchDraw := by
  intro s r
  have hdraw := cfgRead_withRaces r s.raced s.live s.draws
  refine ⟨fun hnone => hdraw.resolve_right fun ⟨old, hmem, _⟩ => hnone old hmem, ?_⟩
  refine hdraw.imp_right fun ⟨old, hmem, hold⟩ => ⟨old, hmem, ?_⟩
  rw [cfgRead_cfgWrite_same]
  exact hold

/-! ### The step of an engine (R70, R84, R85, R210) -/

theorem canRun_iff (s : State) (c : Chan) :
    canRun s c = true ↔ s.present c = true ∧ (s.ch c).cmdQ ≠ [] ∧ heldBack s c = false := by
  simp [canRun, busyOf, and_assoc]

theorem engineStep_eq_runWord {s : State} {c : Chan} {q : Queued} {rest : List Queued}
    (hc : s.present c = true) (hh : heldBack s c = false) (hq : (s.ch c).cmdQ = q :: rest) :
    engineStep s c = runWord s c q rest := by
  have hcan : canRun s c = true := (canRun_iff s c).2 ⟨hc, by simp [hq], hh⟩
  simp [engineStep, hq, hcan]

theorem engineStep_of_not_canRun {s : State} {c : Chan} (h : ¬ canRun s c = true) :
    engineStep s c = .next s := by
  cases hq : (s.ch c).cmdQ <;> simp [engineStep, hq, h]

theorem runWord_of_ok {q : Queued} {i : Instr} (h : decode q.word = .ok i) (s : State) (c : Chan)
    (rest : List Queued) : runWord s c q rest = exec i (s.taken c q rest) := by
  simp [runWord, h]

theorem runWord_of_error {q : Queued} {e : Illegal} (h : decode q.word = .error e) (s : State)
    (c : Chan) (rest : List Queued) : runWord s c q rest = execIllegal (s.taken c q rest) := by
  simp [runWord, h]

/-! ### Who takes the step (R69, R73, R217, R233) -/

theorem step_of_schedule {s : State} {a : Agent} {later : List Agent}
    (h : s.schedule = a :: later) : step s = agentStep { s with schedule := later } a := by
  simp [step, machineStep, h]

theorem step_of_no_schedule {s : State} (h : s.schedule = []) : step s = freeStep s := by
  simp [step, machineStep, h]

/-- Settles O56: the engine that the schedule names can run, and what it runs is its head word. -/
theorem stepRunsDecoded : Obligations.StepRunsDecoded := by
  refine ⟨fun s c q rest later hsched hc hh hq => ?_, fun _ _ _ _ => engineStep_eq_runWord,
    fun s c h => ?_⟩
  · intro taken
    have htaken : State.taken { s with schedule := later } c q rest = taken := by cases c <;> rfl
    have hstep : step s = runWord { s with schedule := later } c q rest := by
      rw [step_of_schedule hsched]
      cases c <;> exact engineStep_eq_runWord hc hh hq
    exact ⟨fun i hi => by rw [hstep, runWord_of_ok hi, htaken],
      fun e he => by rw [hstep, runWord_of_error he, htaken]⟩
  · refine engineStep_of_not_canRun fun hcan => ?_
    obtain ⟨hc, hq, -⟩ := (canRun_iff s c).1 hcan
    rcases h with h | h
    · exact hq h
    · simp [hc] at h

theorem host_mem_movers (s : State) : .host ∈ movers s ↔ s.host ≠ [] := by
  simp [movers]

theorem engine_mem_movers (s : State) (c : Chan) : .engine c ∈ movers s ↔ canRun s c = true := by
  cases c <;> simp [movers]

theorem chooseAgent_mem (first : Agent) (others : List Agent) (draw : Nat) :
    chooseAgent first others draw ∈ first :: others := by
  have hlt : Config.freeTurn draw % (others.length + 1) < (first :: others).length :=
    Nat.mod_lt _ (Nat.succ_pos _)
  rw [chooseAgent, List.getD_eq_getElem _ _ hlt]
  exact List.getElem_mem hlt

/-- Where some agent can move, one of them does. -/
theorem freeStep_of_movers {s : State} (h : movers s ≠ []) :
    ∃ a ∈ movers s, ∃ d, freeStep s = agentStep { s with draws := d } a := by
  unfold freeStep
  match hm : movers s with
  | [] => exact absurd hm h
  | [a] => exact ⟨a, List.mem_cons_self, s.draws, rfl⟩
  | a :: b :: others =>
    exact ⟨chooseAgent a (b :: others) s.draws, chooseAgent_mem _ _ _, s.draws + 1, rfl⟩

theorem freeStep_of_no_movers {s : State} (h : movers s = []) :
    freeStep s = if stalled s then .fault .outputStall else .next s := by
  simp [freeStep, h]

/-- Settles O57: the schedule names the agent, or the free choice is one of the movers. -/
theorem someMoverMoves : Obligations.SomeMoverMoves := by
  intro s
  refine ⟨host_mem_movers s, fun c => (engine_mem_movers s c).trans (canRun_iff s c),
    fun a later => step_of_schedule, fun e rest hhost => ?_, fun hhost => ?_, fun c => rfl,
    fun hsched hm => ?_, fun hsched hm => ?_⟩
  · simp [agentStep, hostStep, hhost]
  · simp [agentStep, hostStep, hhost]
  · rw [step_of_no_schedule hsched]
    exact freeStep_of_movers hm
  · rw [step_of_no_schedule hsched]
    exact freeStep_of_no_movers hm

end Sys2Proof.Machine

/-! SUPPORT. Encodings (30_encoding.md R80 to R90; O1 to O7) and the quantizer's hop index (O26).
Three fields determine a command word: the opcode, the operand, and the reserved bits between them,
which are 0. `encode`, `decode` and the opcode map are each compared with those fields, and so with
one another. -/

namespace Sys2Proof.Machine

/-! ### The fields of a command word (R81) -/

theorem getLsbD_eq_false_of_field_eq_zero {w : Word} {lo width i : Nat}
    (h : field w lo width = 0#width) (hlo : lo ≤ i) (hi : i < lo + width) :
    w.getLsbD i = false := by
  have hbit := congrArg (·.getLsbD (i - lo)) h
  simpa only [getLsbD_field, show i - lo < width by omega, Nat.add_sub_of_le hlo, decide_true,
    Bool.true_and, BitVec.getLsbD_zero] using hbit

/-- A word is an opcode with an operand exactly when its three fields say so. -/
theorem opcode_or_operand_eq_iff {width : Nat} (hw : width ≤ 28) (opc : Nibble) (v : BitVec width)
    (w : Word) :
    place opc 28 ||| place v 0 = w ↔
      field w 28 4 = opc ∧ field w width (28 - width) = 0#(28 - width) ∧ field w 0 width = v := by
  constructor
  · rintro rfl
    refine ⟨?_, ?_, ?_⟩ <;> rw [field_or]
    · rw [field_place_same opc (by omega), field_place_disjoint v (by omega)]
      exact BitVec.or_zero
    · rw [field_place_disjoint opc (by omega), field_place_disjoint v (by omega)]
      exact BitVec.or_zero
    · rw [field_place_disjoint opc (by omega), field_place_same v (by omega)]
      exact BitVec.zero_or
  · rintro ⟨rfl, hres, rfl⟩
    apply BitVec.eq_of_getLsbD_eq
    intro i hi
    simp only [BitVec.getLsbD_or, getLsbD_place, getLsbD_field]
    rcases lt_or_ge i 28 with hlow | hhigh
    · rcases lt_or_ge i width with hop | hop
      · simp [hop, hi, show ¬ 28 ≤ i by omega]
      · rw [getLsbD_eq_false_of_field_eq_zero hres hop (by omega)]
        simp [show ¬ 28 ≤ i by omega, show ¬ i < width by omega]
    · simp [hhigh, hi, show i - 28 < 4 by omega, show ¬ i < width by omega]

/-- The mask of a row of R83: every bit that is not of the operand. -/
def rowMask (operandWidth : Nat) : Word := place (BitVec.allOnes (32 - operandWidth)) operandWidth

theorem field_and (a b : Word) (lo width : Nat) :
    field (a &&& b) lo width = field a lo width &&& field b lo width :=
  BitVec.extractLsb'_and

theorem field_rowMask_operand (width : Nat) : field (rowMask width) 0 width = 0 :=
  field_place_disjoint _ (by omega)

theorem field_rowMask_above {width lo n : Nat} (hlo : width ≤ lo) (hn : lo + n ≤ 32) :
    field (rowMask width) lo n = BitVec.allOnes n := by
  apply BitVec.eq_of_getLsbD_eq
  intro i hi
  rw [getLsbD_field, rowMask, getLsbD_place, BitVec.getLsbD_allOnes, BitVec.getLsbD_allOnes]
  simp [hi]
  omega

/-- A word matches a row of R83 exactly when it is the row's opcode with some operand. -/
theorem and_rowMask_eq_iff {width : Nat} (hw : width ≤ 28) (opc : Nibble) (w : Word) :
    w &&& rowMask width = place opc 28 ↔ ∃ v : BitVec width, place opc 28 ||| place v 0 = w := by
  have hzero : place opc 28 = place opc 28 ||| place (0 : BitVec width) 0 := by simp [place]
  calc w &&& rowMask width = place opc 28
      ↔ place opc 28 ||| place (0 : BitVec width) 0 = w &&& rowMask width := by
        rw [← hzero, eq_comm]
    _ ↔ field w 28 4 = opc ∧ field w width (28 - width) = 0#(28 - width) := by
      rw [opcode_or_operand_eq_iff hw, field_and, field_and, field_and, field_rowMask_operand,
        field_rowMask_above hw (by omega), field_rowMask_above (le_refl _) (by omega),
        BitVec.and_allOnes, BitVec.and_allOnes]
      simp
    _ ↔ ∃ v : BitVec width, place opc 28 ||| place v 0 = w := by
      simp [opcode_or_operand_eq_iff hw]

/-! ### Commands by their fields (R81 to R83) -/

/-- The opcode of a command (R83). -/
def opcodeOf : Instr → Nibble
  | .nop _ => 0x0
  | .start _ => 0x1
  | .end_ => 0x2
  | .abort _ => 0x3
  | .enc _ => 0x4
  | .qenc _ => 0x5
  | .senc _ => 0x6
  | .dec _ => 0x7
  | .qdec _ => 0x8
  | .sdec _ => 0x9

/-- How many bits the operand of a command has; the others below the opcode are reserved (R85). -/
def operandWidth : Instr → Nat
  | .nop _ | .abort _ => 28
  | .start _ => 1
  | .end_ => 0
  | .enc _ | .qenc _ => 16
  | .senc _ | .qdec _ => 4
  | .dec _ | .sdec _ => 8

/-- The operand of a command, as it stands in the word. -/
def operandOf : (i : Instr) → BitVec (operandWidth i)
  | .nop hint => hint
  | .start mode => mode.toBit
  | .end_ => 0#0
  | .abort ignored => ignored
  | .enc sample => sample
  | .qenc sample => sample
  | .senc hop => hop
  | .dec sym => sym
  | .qdec hop => hop
  | .sdec sym => sym

theorem operandWidth_le (i : Instr) : operandWidth i ≤ 28 := by
  cases i <;> simp [operandWidth]

theorem opcodeOf_lt (i : Instr) : (opcodeOf i).toNat < 10 := by
  cases i <;> simp [opcodeOf]

theorem encode_eq (i : Instr) : encode i = place (opcodeOf i) 28 ||| place (operandOf i) 0 := by
  cases i <;> rfl

theorem PassMode.ofBit_toBit (mode : PassMode) : PassMode.ofBit mode.toBit = mode := by
  cases mode <;> rfl

theorem PassMode.toBit_ofBit (b : BitVec 1) : (PassMode.ofBit b).toBit = b := by
  revert b; decide

/-- The decoder answers a command exactly when the word's fields are the command's (R85). -/
theorem decode_eq_ok_iff_fields (w : Word) (i : Instr) :
    decode w = .ok i ↔
      field w 28 4 = opcodeOf i ∧
        field w (operandWidth i) (28 - operandWidth i) = 0#(28 - operandWidth i) ∧
        field w 0 (operandWidth i) = operandOf i := by
  constructor
  · intro h
    unfold decode at h
    dsimp only at h
    repeat' split at h
    -- What is left is one branch for each command, in the order of the opcodes.
    all_goals cases h
    · exact ⟨‹_›, BitVec.of_length_zero, rfl⟩
    · exact ⟨‹_›, ‹_›, (PassMode.toBit_ofBit _).symm⟩
    · exact ⟨‹_›, ‹_›, BitVec.of_length_zero⟩
    · exact ⟨‹_›, BitVec.of_length_zero, rfl⟩
    all_goals exact ⟨‹_›, ‹_›, rfl⟩
  · rintro ⟨hopc, hres, hop⟩
    -- The opcode of each command selects its own branch of `decode`.
    cases i <;> simp_all [decode, opcodeOf, operandWidth, operandOf, PassMode.ofBit_toBit]

/-- A word decodes to a command exactly when it is that command's encoding. -/
theorem decode_eq_ok_iff (w : Word) (i : Instr) : decode w = .ok i ↔ encode i = w := by
  rw [decode_eq_ok_iff_fields, encode_eq, opcode_or_operand_eq_iff (operandWidth_le i)]

/-- Settles O1: a command and its word have the same fields. -/
theorem decodeOfEncode : Obligations.DecodeOfEncode := fun i => (decode_eq_ok_iff _ i).2 rfl

/-- Settles O2: a command and its word have the same fields. -/
theorem encodeOfDecode : Obligations.EncodeOfDecode := fun w i => (decode_eq_ok_iff w i).1

/-- Settles O6: each word is the encoding of its command. -/
theorem workedEncodings : Obligations.WorkedEncodings := by
  unfold Obligations.WorkedEncodings
  simp only [decode_eq_ok_iff, and_self]
  decide

/-! ### The opcode map (R83) -/

/-- A row of the map with an operand of `width` bits, as the commands that `make` builds of it. -/
theorem matches_row_iff {width : Nat} (hw : width ≤ 28) {opc : Nibble} {mask pattern : Word}
    (hmask : mask = rowMask width) (hpattern : pattern = place opc 28)
    {make : BitVec width → Instr} (hmake : ∀ v, encode (make v) = place opc 28 ||| place v 0)
    (w : Word) : w &&& mask = pattern ↔ ∃ v, decode w = .ok (make v) := by
  subst hmask hpattern
  simp only [and_rowMask_eq_iff hw, decode_eq_ok_iff, hmake]

theorem matches_nop_iff (w : Word) :
    w &&& 0xF0000000 = 0x00000000 ↔ ∃ hint, decode w = .ok (.nop hint) :=
  matches_row_iff (by decide) (by decide) (by decide) (fun _ => rfl) w

theorem matches_start_iff (w : Word) :
    w &&& 0xFFFFFFFE = 0x10000000 ↔ ∃ mode, decode w = .ok (.start mode) := by
  rw [matches_row_iff (width := 1) (opc := 0x1) (make := fun b => .start (.ofBit b)) (by decide)
    (by decide) (by decide) (fun b => by rw [encode, PassMode.toBit_ofBit]; rfl)]
  exact ⟨fun ⟨b, h⟩ => ⟨_, h⟩, fun ⟨mode, h⟩ => ⟨mode.toBit, by rwa [PassMode.ofBit_toBit]⟩⟩

theorem matches_end_iff (w : Word) :
    w &&& 0xFFFFFFFF = 0x20000000 ↔ decode w = .ok .end_ := by
  rw [matches_row_iff (width := 0) (opc := 0x2) (make := fun _ => .end_) (by decide)
    (by decide) (by decide) (by decide), exists_const]

theorem matches_abort_iff (w : Word) :
    w &&& 0xF0000000 = 0x30000000 ↔ ∃ ignored, decode w = .ok (.abort ignored) :=
  matches_row_iff (by decide) (by decide) (by decide) (fun _ => rfl) w

theorem matches_enc_iff (w : Word) :
    w &&& 0xFFFF0000 = 0x40000000 ↔ ∃ sample, decode w = .ok (.enc sample) :=
  matches_row_iff (by decide) (by decide) (by decide) (fun _ => rfl) w

theorem matches_qenc_iff (w : Word) :
    w &&& 0xFFFF0000 = 0x50000000 ↔ ∃ sample, decode w = .ok (.qenc sample) :=
  matches_row_iff (by decide) (by decide) (by decide) (fun _ => rfl) w

theorem matches_senc_iff (w : Word) :
    w &&& 0xFFFFFFF0 = 0x60000000 ↔ ∃ hop, decode w = .ok (.senc hop) :=
  matches_row_iff (by decide) (by decide) (by decide) (fun _ => rfl) w

theorem matches_dec_iff (w : Word) :
    w &&& 0xFFFFFF00 = 0x70000000 ↔ ∃ sym, decode w = .ok (.dec sym) :=
  matches_row_iff (by decide) (by decide) (by decide) (fun _ => rfl) w

theorem matches_qdec_iff (w : Word) :
    w &&& 0xFFFFFFF0 = 0x80000000 ↔ ∃ hop, decode w = .ok (.qdec hop) :=
  matches_row_iff (by decide) (by decide) (by decide) (fun _ => rfl) w

theorem matches_sdec_iff (w : Word) :
    w &&& 0xFFFFFF00 = 0x90000000 ↔ ∃ sym, decode w = .ok (.sdec sym) :=
  matches_row_iff (by decide) (by decide) (by decide) (fun _ => rfl) w

/-- A word that matches a row is a command of the row's mnemonic. -/
theorem exists_decode_of_matches {w : Word} {r : OpcodeRow} (hr : r ∈ opcodeMap)
    (h : w &&& r.mask = r.pattern) : ∃ i, decode w = .ok i ∧ i.mnemonic = r.mnemonic := by
  simp only [opcodeMap, List.mem_cons, List.not_mem_nil, or_false] at hr
  rcases hr with rfl | rfl | rfl | rfl | rfl | rfl | rfl | rfl | rfl | rfl
  · exact ((matches_nop_iff w).1 h).imp' _ fun _ hi => ⟨hi, rfl⟩
  · exact ((matches_start_iff w).1 h).imp' _ fun _ hi => ⟨hi, rfl⟩
  · exact ⟨_, (matches_end_iff w).1 h, rfl⟩
  · exact ((matches_abort_iff w).1 h).imp' _ fun _ hi => ⟨hi, rfl⟩
  · exact ((matches_enc_iff w).1 h).imp' _ fun _ hi => ⟨hi, rfl⟩
  · exact ((matches_qenc_iff w).1 h).imp' _ fun _ hi => ⟨hi, rfl⟩
  · exact ((matches_senc_iff w).1 h).imp' _ fun _ hi => ⟨hi, rfl⟩
  · exact ((matches_dec_iff w).1 h).imp' _ fun _ hi => ⟨hi, rfl⟩
  · exact ((matches_qdec_iff w).1 h).imp' _ fun _ hi => ⟨hi, rfl⟩
  · exact ((matches_sdec_iff w).1 h).imp' _ fun _ hi => ⟨hi, rfl⟩

theorem encodedRow_statement (i : Instr) : Laws.EncodedRow.Statement i := by
  cases i with
  | nop hint => exact Laws.EncodedRow.nop hint
  | start mode => exact Laws.EncodedRow.start mode
  | end_ => exact Laws.EncodedRow.end_
  | abort ignored => exact Laws.EncodedRow.abort ignored
  | enc sample => exact Laws.EncodedRow.enc sample
  | qenc sample => exact Laws.EncodedRow.qenc sample
  | senc hop => exact Laws.EncodedRow.senc hop
  | dec sym => exact Laws.EncodedRow.dec sym
  | qdec hop => exact Laws.EncodedRow.qdec hop
  | sdec sym => exact Laws.EncodedRow.sdec sym

/-- A command's word matches the row of its mnemonic. -/
theorem exists_matches_of_decode {w : Word} {i : Instr} (h : decode w = .ok i) :
    ∃ r ∈ opcodeMap, r.mnemonic = i.mnemonic ∧ w &&& r.mask = r.pattern := by
  obtain ⟨r, hr, hname, hmatch⟩ := encodedRow_statement i
  rw [(decode_eq_ok_iff w i).1 h] at hmatch
  exact ⟨r, hr, hname, of_decide_eq_true hmatch⟩

theorem eq_of_mnemonic_eq {r r' : OpcodeRow} (hr : r ∈ opcodeMap) (hr' : r' ∈ opcodeMap)
    (h : r.mnemonic = r'.mnemonic) : r = r' :=
  have hdistinct : ∀ r ∈ opcodeMap, ∀ r' ∈ opcodeMap, r.mnemonic = r'.mnemonic → r = r' := by decide
  hdistinct r hr r' hr' h

theorem matches_iff_mnemonic {r : OpcodeRow} (hr : r ∈ opcodeMap) (w : Word) :
    w &&& r.mask = r.pattern ↔ ∃ i, decode w = .ok i ∧ i.mnemonic = r.mnemonic := by
  refine ⟨exists_decode_of_matches hr, fun ⟨i, hi, hname⟩ => ?_⟩
  obtain ⟨r', hr', hname', hmatch⟩ := exists_matches_of_decode hi
  rwa [eq_of_mnemonic_eq hr hr' (hname.symm.trans hname'.symm)]

/-- Settles O3, row by row. -/
theorem wordIsItsRow : Obligations.WordIsItsRow := fun w =>
  ⟨matches_nop_iff w, matches_start_iff w, matches_end_iff w, matches_abort_iff w,
    matches_enc_iff w, matches_qenc_iff w, matches_senc_iff w, matches_dec_iff w,
    matches_qdec_iff w, matches_sdec_iff w, fun _ hr => matches_iff_mnemonic hr w⟩

/-- Every word is of exactly one row of R83, or it is illegal and of none (R85). -/
theorem unique_row_or_illegal (w : Word) :
    (∃ r ∈ opcodeMap, w &&& r.mask = r.pattern ∧
      ∀ r' ∈ opcodeMap, w &&& r'.mask = r'.pattern → r' = r) ∨
    (∃ e, decode w = .error e) ∧ ∀ r ∈ opcodeMap, w &&& r.mask ≠ r.pattern := by
  cases hw : decode w with
  | ok i =>
    obtain ⟨r, hr, hname, hmatch⟩ := exists_matches_of_decode hw
    refine .inl ⟨r, hr, hmatch, fun r' hr' hmatch' => eq_of_mnemonic_eq hr' hr ?_⟩
    obtain ⟨i', hi', hname'⟩ := exists_decode_of_matches hr' hmatch'
    cases hw.symm.trans hi'
    exact hname'.symm.trans hname.symm
  | error e =>
    refine .inr ⟨⟨e, rfl⟩, fun r hr hmatch => ?_⟩
    obtain ⟨i, hi, -⟩ := exists_decode_of_matches hr hmatch
    cases hw.symm.trans hi

/-! ### Illegal words (R84, R85) -/

/-- An illegal word raises `Fault(OPCODE)` outside FAULT, and only leaves the queue beside. -/
theorem runWord_of_illegal {s : State} {c : Chan} {q : Queued} (rest : List Queued)
    (h : ∀ i, decode q.word ≠ .ok i) (hs : (s.ch c).state ≠ .fault) :
    runWord s c q rest =
      .next ((s.taken c q rest).setCh c
        { s.ch c with cmdQ := rest, state := .fault, err := .opcode }) := by
  cases hq : decode q.word with
  | ok i => exact absurd hq (h i)
  | error e =>
    rw [runWord_of_error hq, execIllegal,
      onActive_of_raise (code := .opcode) (by simpa using hs) rfl, State.taken_active, State.ch_taken_same]
    rfl

/-- Settles O4: no command has such an opcode. -/
theorem reservedOpcodeFaults : Obligations.ReservedOpcodeFaults := by
  intro s c q rest hopc hs
  refine runWord_of_illegal rest (fun i hi => ?_) hs
  rw [((decode_eq_ok_iff_fields _ i).1 hi).1] at hopc
  exact absurd (opcodeOf_lt i) (by omega)

/-- Settles O5: the reserved bits of a command's word are 0. -/
theorem reservedBitsFault : Obligations.ReservedBitsFault := by
  refine ⟨fun s c q rest hreserved hs => runWord_of_illegal rest (fun i hi => ?_) hs,
    fun w hw => ?_, fun w hw => ?_, unique_row_or_illegal⟩
  · obtain ⟨hopc, hzero, -⟩ := (decode_eq_ok_iff_fields _ i).1 hi
    -- Each format either has another opcode than `i`, or the reserved bits that `hzero` clears.
    cases i <;> simp_all [opcodeOf, operandWidth]
  · exact (decode_eq_ok_iff_fields w _).2 ⟨hw, BitVec.of_length_zero, rfl⟩
  · exact (decode_eq_ok_iff_fields w _).2 ⟨hw, BitVec.of_length_zero, rfl⟩

/-! ### Output words (R89, R90) -/

/-- An output word with `VALID` and `KIND` as one constant. -/
theorem outWord_eq {kind : OutKind} {head : Word}
    (hhead : place 1#1 31 ||| place kind.code 28 = head) (hop : Nibble) (data : Half) :
    outWord kind hop data = head ||| hop.setWidth 32 <<< 16 ||| data.setWidth 32 := by
  rw [outWord, hhead, place_zero_eq_setWidth, place]

/-- Settles O7: a SYM word has no hop, a HOP word no data. -/
theorem outputWords : Obligations.OutputWords := by
  refine ⟨outWord_eq (by decide), fun y => ?_, outWord_eq (by decide), fun h => ?_⟩
  · rw [symWord, outWord_eq (head := 0xA0000000#32) (by decide),
      BitVec.setWidth_setWidth (by decide)]
    rfl
  · rw [hopWord, outWord_eq (head := 0xC0000000#32) (by decide)]
    exact BitVec.or_zero

/-! ### Hop indices of the quantizer (R86, R128) -/

/-- A level no further out than `K` has its hop index `K + L` without a wrap (R86). -/
theorem toNat_hopOfLevel {c : PassConfig} {level : Int} (hc : 1 ≤ nlOf c)
    (hlevel : level.natAbs ≤ kOf c) :
    ((hopOfLevel c level).toNat : Int) = kOf c + level ∧ (hopOfLevel c level).toNat < nlOf c := by
  have hnl : nlOf c < 16 := c.numLevels.isLt
  have hk : 2 * kOf c ≤ nlOf c - 1 := Nat.mul_div_le _ 2
  rw [hopOfLevel, BitVec.toNat_ofInt]
  omega

/-- Settles O26: the selected level is no further out than `K`. -/
theorem quantizerHopInRange : Obligations.QuantizerHopInRange := by
  intro p ch o hnl
  obtain ⟨hhop, hlt⟩ := toNat_hopOfLevel hnl (selectLevel_bound p ch o.toInt (predict ch o.toInt))
  refine ⟨hlt, ?_⟩
  rw [levelOfHop, quantOut, quantLevel, hhop]
  omega

end Sys2Proof.Machine

/-! SUPPORT. Pass control (40_pass_control.md R100 to R114; O8 to O10, O12, O14 to O17, O37, O45).
From the outside in: a command seen from the channel that executes it, what each command has done
where it completes, and then the pass control commands, the table of states, `SYM_COUNT` and what a
command depends on. -/

namespace Sys2Proof.Machine

/-! ### A command seen from the channel that executes it (R35, R108) -/

theorem State.ch_withDraws (s : State) (d : Nat) (c : Chan) :
    { s with draws := d }.ch c = s.ch c := by cases c <;> rfl

theorem State.act_withDraws (s : State) (d : Nat) : { s with draws := d }.act = s.act :=
  s.ch_withDraws d s.active

@[simp] theorem State.act_setCh_active (s : State) (ch : Channel) :
    (s.setCh s.active ch).act = ch := by
  rw [State.act, State.setCh_active, State.ch_setCh_same]

@[simp] theorem State.act_taken (s : State) (c : Chan) (q : Queued) (rest : List Queued) :
    (s.taken c q rest).act = { s.ch c with cmdQ := rest } := by
  rw [State.act, State.taken_active, State.ch_taken_same]

theorem State.act_setCh_withDraws (s : State) (ch : Channel) (d : Nat) :
    { s.setCh s.active ch with draws := d }.act = ch :=
  (State.act_withDraws _ d).trans (s.act_setCh_active ch)

theorem onActive_act_of_raise {s : State} {f : Channel → Verdict} {code : ErrCode}
    (hf : s.act.state ≠ .fault) (hv : f s.act = .raise code) :
    onActive s f = .next (s.setCh s.active (s.act.enterFault code)) :=
  onActive_of_raise hf hv

theorem abort_or_not (i : Instr) :
    (∃ ignored, i = .abort ignored) ∨ ∀ ignored, i ≠ .abort ignored := by
  rw [← not_exists]
  exact Classical.em _

/-- The draws that a command takes before it runs: those of a START's latch, discarded or not. -/
def State.drawn (s : State) : Instr → State
  | .start _ => s.tookLatch
  | _ => s

theorem State.drawn_eq (s : State) (i : Instr) : ∃ d, s.drawn i = { s with draws := d } := by
  cases i with
  | start mode => exact ⟨_, rfl⟩
  | _ => exact ⟨s.draws, rfl⟩

@[simp] theorem State.act_drawn (s : State) (i : Instr) : (s.drawn i).act = s.act := by
  obtain ⟨d, hd⟩ := s.drawn_eq i
  rw [hd, State.act_withDraws]

/-- Every command but ABORT runs as its verdict, and so is discarded in FAULT. -/
theorem exec_eq_onActive {i : Instr} (hi : ∀ ignored, i ≠ .abort ignored) (s : State) :
    exec i s = onActive (s.drawn i) (verdictOf s.params s.latched i) := by
  cases i with
  | nop hint =>
    by_cases hf : s.act.state = .fault
    · exact (onActive_in_fault hf).symm
    · have hdone : onActive s (verdictOf s.params s.latched (.nop hint)) =
          .next (s.setCh s.active s.act) := onActive_of_done hf rfl
      exact .symm (hdone.trans (congrArg _ (s.setCh_self s.active)))
  | abort ignored => exact absurd rfl (hi ignored)
  | _ => rfl

theorem exec_in_fault {i : Instr} {s : State} (hi : ∀ ignored, i ≠ .abort ignored)
    (hf : s.act.state = .fault) : exec i s = .next (s.drawn i) := by
  rw [exec_eq_onActive hi]
  exact onActive_in_fault (by rw [← State.act, State.act_drawn, hf])

/-- Outside FAULT the channel of a command that answers a next state is what its verdict says. -/
theorem exec_next_act {i : Instr} {s t : State} (h : exec i s = .next t)
    (hf : s.act.state ≠ .fault) :
    verdictOf s.params s.latched i s.act = .done t.act ∨
      ∃ code, verdictOf s.params s.latched i s.act = .raise code ∧
        t.act = s.act.enterFault code := by
  obtain ⟨d, -, ⟨hfault, -⟩ | ⟨ch, hdone, rfl⟩ | ⟨-, code, hraise, rfl⟩⟩ := exec_next h
  · exact absurd hfault hf
  · exact .inl (hdone.trans (congrArg _ (s.act_setCh_withDraws ch d).symm))
  · exact .inr ⟨code, hraise, s.act_setCh_withDraws _ d⟩

/-- In FAULT only an ABORT changes the channel (R107, R108). -/
theorem exec_next_act_in_fault {i : Instr} {s t : State} (h : exec i s = .next t)
    (hf : s.act.state = .fault) :
    t.act = s.act ∨ (∃ ignored, i = .abort ignored) ∧ t.act = s.act.abortPass := by
  obtain ⟨ignored, rfl⟩ | hi := abort_or_not i
  · cases h
    exact .inr ⟨⟨ignored, rfl⟩, s.act_setCh_active _⟩
  · rw [exec_in_fault hi hf] at h
    cases h
    exact .inl (s.act_drawn i)

theorem exec_active {i : Instr} {s t : State} (h : exec i s = .next t) : t.active = s.active := by
  obtain ⟨d, -, ⟨-, rfl⟩ | ⟨ch, -, rfl⟩ | ⟨-, code, -, rfl⟩⟩ := exec_next h
  · rfl
  · exact s.setCh_active _ _
  · exact s.setCh_active _ _

/-! ### What a command has done where it completes -/

section Completed

variable {p : Params} {latch : PassConfig} {ch ch' : Channel}

theorem startPass_done {mode : PassMode} (h : startPass mode latch ch = .done ch') :
    ch.state = .idle ∧
      ch' = { ch.initPass latch with state := openState mode, done := false } := by
  unfold startPass at h
  split_ifs at h with hs
  cases h
  exact ⟨not_not.1 hs, rfl⟩

theorem startPass_raise {mode : PassMode} {code : ErrCode}
    (h : startPass mode latch ch = .raise code) :
    ch.state ≠ .idle ∧ code = .state ∨ ch.state = .idle ∧ code = .config := by
  unfold startPass at h
  split_ifs at h with hs
  · exact .inl ⟨hs, by cases h; rfl⟩
  · exact .inr ⟨not_not.1 hs, by cases h; rfl⟩
  · exact .inr ⟨not_not.1 hs, by cases h; rfl⟩

theorem endPass_done (h : endPass ch = .done ch') :
    ch.state = .encode ∧ ch' = { flush ch with state := .idle, done := true } ∨
      ch.state = .decode ∧ ch' = { ch with state := .idle, done := true } := by
  unfold endPass at h
  split at h
  · exact .inl ⟨‹_›, by cases h; rfl⟩
  · exact .inr ⟨‹_›, by cases h; rfl⟩
  · cases h
  · cases h

theorem endPass_raise {code : ErrCode} (h : endPass ch = .raise code) :
    (ch.state = .idle ∨ ch.state = .fault) ∧ code = .state := by
  unfold endPass at h
  split at h
  · cases h
  · cases h
  · exact ⟨.inl ‹_›, by cases h; rfl⟩
  · exact ⟨.inr ‹_›, by cases h; rfl⟩

/-- The quantizer's step and its QREC word, with which QENC ends and ENC goes on (R136, R181). -/
def quantEmit (p : Params) (ch : Channel) (o : Half) : Channel :=
  (quantStep p ch o).emit (qrecWord (quantOut p ch o).1 (quantOut p ch o).2)

theorem qencOn_done {o : Half} (h : qencOn p o ch = .done ch') :
    ch.state = .encode ∧ ch' = quantEmit p ch o := by
  unfold qencOn at h
  split_ifs at h with hs
  cases h
  exact ⟨not_not.1 hs, rfl⟩

theorem symEnc_done {hop : Nibble} (h : symEnc ch hop = .done ch') : ch' = symEncStep ch hop := by
  unfold symEnc at h
  split_ifs at h
  cases h
  rfl

theorem sencOn_done {hop : Nibble} (h : sencOn hop ch = .done ch') :
    ch.state = .encode ∧ ch' = symEncStep ch hop := by
  unfold sencOn at h
  split_ifs at h with hs
  exact ⟨not_not.1 hs, symEnc_done h⟩

theorem encOn_done {o : Half} (h : encOn p o ch = .done ch') :
    ch.state = .encode ∧ ch' = symEncStep (quantEmit p ch o) (quantOut p ch o).1 := by
  unfold encOn at h
  split_ifs at h with hs
  exact ⟨not_not.1 hs, symEnc_done h⟩

theorem qdecOn_done {hop : Nibble} (h : qdecOn p hop ch = .done ch') :
    ch.state = .decode ∧ ch' = reconEmit p ch hop := by
  unfold qdecOn at h
  split_ifs at h with hs
  cases h
  exact ⟨not_not.1 hs, rfl⟩

theorem sdecOn_done {y : Byte} (h : sdecOn y ch = .done ch') :
    ch.state = .decode ∧ ch' = (symDecStep ch y).emitAll ((symHops ch y).map hopWord) := by
  unfold sdecOn at h
  split at h
  · cases h
  next hs =>
  split at h
  · cases h
  split_ifs at h
  cases h
  exact ⟨not_not.1 hs, rfl⟩

theorem decOn_done {y : Byte} (h : decOn p y ch = .done ch') :
    ch.state = .decode ∧ ch' = reconAll p (symDecStep ch y) (symHops ch y) := by
  unfold decOn at h
  split at h
  · cases h
  next hs =>
  split at h
  · cases h
  split_ifs at h
  cases h
  exact ⟨not_not.1 hs, rfl⟩

theorem breakRun_state (ch : Channel) : (breakRun ch).state = ch.state := by
  unfold breakRun
  split_ifs <;> rfl

theorem symEncStep_state (ch : Channel) (hop : Nibble) :
    (symEncStep ch hop).state = ch.state := by
  unfold symEncStep
  extract_lets y
  split_ifs
  · rfl
  · rfl
  · exact breakRun_state ch

/-- One DREC word for each hop: the state and the symbol count stay. -/
theorem reconAll_frame (p : Params) (ch : Channel) (hops : List Nibble) :
    (reconAll p ch hops).state = ch.state ∧ (reconAll p ch hops).symCount = ch.symCount := by
  induction hops generalizing ch with
  | nil => exact ⟨rfl, rfl⟩
  | cons hop hops ih => exact ih (reconEmit p ch hop)

/-! ### Commands that run in one kind of pass only (R100) -/

/-- The state in which a data command runs; the other commands have none of their own. -/
def passOf : Instr → Option ChState
  | .enc _ | .qenc _ | .senc _ => some .encode
  | .dec _ | .qdec _ | .sdec _ => some .decode
  | .nop _ | .start _ | .end_ | .abort _ => none

variable {i : Instr} {pass : ChState}

theorem verdictOf_outside_pass (hp : passOf i = some pass) (hs : ch.state ≠ pass) :
    verdictOf p latch i ch = .raise .state := by
  cases i <;> cases hp <;> exact if_pos hs

/-- A data command that completes ran in its pass and leaves it open. -/
theorem verdictOf_data_done (hp : passOf i = some pass)
    (h : verdictOf p latch i ch = .done ch') : ch.state = pass ∧ ch'.state = pass := by
  suffices hkept : ch'.state = ch.state by
    by_cases hs : ch.state = pass
    · exact ⟨hs, hkept.trans hs⟩
    · rw [verdictOf_outside_pass hp hs] at h
      cases h
  cases i with
  | enc o => rw [(encOn_done h).2, symEncStep_state]; rfl
  | qenc o => rw [(qencOn_done h).2]; rfl
  | senc hop => rw [(sencOn_done h).2, symEncStep_state]
  | dec y => rw [(decOn_done h).2, (reconAll_frame p _ _).1, (symDecStep_frame ch y).1]
  | qdec hop => rw [(qdecOn_done h).2]; rfl
  | sdec y => rw [(sdecOn_done h).2]; exact (symDecStep_frame ch y).1
  | _ => cases hp

end Completed

/-! ### NOP, END and ABORT (R101, R106, R107) -/

/-- Settles O8: a word with the opcode of NOP is a NOP. -/
theorem nopNoEffect : Obligations.NopNoEffect := by
  refine ⟨fun s hint => rfl, fun s c q rest hopc => ?_⟩
  obtain ⟨-, hnop, -⟩ := reservedBitsFault
  exact runWord_of_ok (hnop q.word hopc) s c rest

/-- Settles O14: the arms of `endPass` for the two states. -/
theorem endDecodeAndIdle : Obligations.EndDecodeAndIdle := by
  refine fun s => ⟨fun hs => ?_, fun hs => ?_⟩
  · exact onActive_of_done (ne_of_eq_of_ne hs (by decide)) (by rw [← State.act, endPass, hs])
  · exact onActive_of_raise (ne_of_eq_of_ne hs (by decide)) (by rw [← State.act, endPass, hs])

/-- Settles O15: ABORT makes no check. -/
theorem abortInEveryState : Obligations.AbortInEveryState := fun _ _ => rfl

/-! ### A valid configuration (R103, R158) -/

/-- The values of a function on `0` to `n - 1` are a permutation of these when each is taken once. -/
theorem map_range_perm_iff (f : Nat → Nat) (n : Nat) :
    ((List.range n).map f).Perm (List.range n) ↔
      (∀ h < n, f h < n) ∧ ∀ rank < n, ∃! h, h < n ∧ f h = rank := by
  constructor
  · intro hperm
    have hmem : ∀ rank, (∃ h < n, f h = rank) ↔ rank < n := fun rank => by
      simpa using hperm.mem_iff (a := rank)
    have hinj := List.inj_on_of_nodup_map (hperm.nodup_iff.2 List.nodup_range)
    refine ⟨fun h hh => (hmem _).1 ⟨h, hh, rfl⟩, fun rank hrank => ?_⟩
    obtain ⟨h, hh, rfl⟩ := (hmem rank).2 hrank
    refine ⟨h, ⟨hh, rfl⟩, fun h' ⟨hh', heq⟩ => ?_⟩
    exact hinj (List.mem_range.2 hh') (List.mem_range.2 hh) heq
  · rintro ⟨hlt, honce⟩
    have hnodup : ((List.range n).map f).Nodup := by
      refine List.nodup_range.map_on fun a ha b hb heq => ?_
      rw [List.mem_range] at ha hb
      exact (honce _ (hlt a ha)).unique ⟨ha, rfl⟩ ⟨hb, heq.symm⟩
    refine (List.perm_ext_iff_of_nodup hnodup List.nodup_range).2 fun rank => ?_
    rw [List.mem_map, List.mem_range]
    constructor
    · rintro ⟨h, hh, rfl⟩
      exact hlt h (List.mem_range.1 hh)
    · intro hrank
      obtain ⟨h, ⟨hh, heq⟩, -⟩ := honce rank hrank
      exact ⟨h, List.mem_range.2 hh, heq⟩

theorem prioValid_iff (c : PassConfig) :
    prioValid c = true ↔
      (∀ h < nlOf c, (prioOf c h).toNat < nlOf c) ∧
        (∀ rank < nlOf c, ∃! h, h < nlOf c ∧ (prioOf c h).toNat = rank) ∧
        prioOf c ((nlOf c - 1) / 2) = 0 := by
  rw [prioValid, Bool.and_eq_true, List.isPerm_iff, ranksOf, map_range_perm_iff, decide_eq_true_eq,
    and_assoc, kOf]

/-- Settles O12: condition by condition, with `prioValid_iff` for the sixth. -/
theorem configValidity : Obligations.ConfigValidity := fun c => by
  simp only [cfgValid, Bool.and_eq_true, decide_eq_true_eq, prioValid_iff, and_assoc]
  rfl

/-! ### START (R102, R104) -/

theorem exec_start_of_done {s : State} {mode : PassMode} {ch : Channel}
    (hf : s.act.state ≠ .fault) (h : startPass mode s.latched s.act = .done ch) :
    exec (.start mode) s =
      .next ({ s with draws := s.draws + s.raced.length }.setCh s.active ch) := by
  rw [← s.act_drawn (.start mode)] at hf h
  exact onActive_of_done hf h

theorem exec_start_of_raise {s : State} {mode : PassMode} {code : ErrCode}
    (hf : s.act.state ≠ .fault) (h : startPass mode s.latched s.act = .raise code) :
    exec (.start mode) s =
      .next ({ s with draws := s.draws + s.raced.length }.setCh s.active
        (s.act.enterFault code)) := by
  rw [← s.act_drawn (.start mode)] at hf h ⊢
  exact onActive_act_of_raise hf h

/-- Settles O9: the checks of `startPass` pass one after the other. -/
theorem startOpensPass : Obligations.StartOpensPass := by
  intro s mode hidle hvalid hseed
  have hf : s.act.state ≠ .fault := ne_of_eq_of_ne hidle (by decide)
  have hbounds : ¬ (mode = .dec ∧ inBounds s.latched s.act.firstAmp = false) := by
    rintro ⟨hmode, hout⟩
    exact absurd (hseed hmode) (by rw [hout]; decide)
  have hdone : startPass mode s.latched s.act =
      .done { s.act.initPass s.latched with state := openState mode, done := false } := by
    rw [startPass, if_neg (not_not.2 hidle), if_neg (by rw [hvalid]; decide), if_neg hbounds]
  rw [exec_start_of_done hf hdone]
  cases mode <;> rfl

/-- Settles O10: the first check of `startPass` that fails gives the code. -/
theorem startFaults : Obligations.StartFaults := by
  intro s mode faults
  refine ⟨fun hopen => ?_, fun hidle hvalid => ?_, fun hidle hvalid hmode hseed => ?_⟩
  · have hs : s.act.state ≠ .idle ∧ s.act.state ≠ .fault := by
      rcases hopen with hs | hs <;> rw [hs] <;> decide
    exact exec_start_of_raise hs.2 (if_pos hs.1)
  · refine exec_start_of_raise (ne_of_eq_of_ne hidle (by decide)) ?_
    rw [startPass, if_neg (not_not.2 hidle), if_pos hvalid]
  · refine exec_start_of_raise (ne_of_eq_of_ne hidle (by decide)) ?_
    rw [startPass, if_neg (not_not.2 hidle), if_neg (by rw [hvalid]; decide),
      if_pos ⟨hmode, hseed⟩]

/-! ### Words in FAULT (R108) -/

/-- Settles O16: an ABORT is the only command with opcode 3. -/
theorem faultDiscards : Obligations.FaultDiscards := by
  intro s c q rest hs hopc
  have hf : (s.taken c q rest).act.state = .fault := by rwa [State.act_taken]
  cases hq : decode q.word with
  | error e =>
    rw [runWord_of_error hq]
    exact ⟨(s.taken c q rest).draws, onActive_in_fault hf⟩
  | ok i =>
    have hi : ∀ ignored, i ≠ .abort ignored := by
      rintro ignored rfl
      exact hopc ((decode_eq_ok_iff_fields _ _).1 hq).1
    obtain ⟨d, hd⟩ := (s.taken c q rest).drawn_eq i
    exact ⟨d, by rw [runWord_of_ok hq, exec_in_fault hi hf, hd]⟩

/-! ### The table of states (R100) -/

section Table

variable {p : Params} {latch : PassConfig} {ch ch' : Channel} {i : Instr}

theorem dataRow_of_done {pass : ChState} (hp : passOf i = some pass)
    (h : verdictOf p latch i ch = .done ch') : dataRow pass ch ch' := by
  obtain ⟨hs, hs'⟩ := verdictOf_data_done hp h
  rw [dataRow, if_pos hs]
  exact .inl hs'

theorem dataRow_of_raise {pass : ChState} {code : ErrCode} (hp : passOf i = some pass)
    (h : verdictOf p latch i ch = .raise code) : dataRow pass ch (ch.enterFault code) := by
  unfold dataRow
  split
  · exact .inr rfl
  · next hs =>
    rw [verdictOf_outside_pass hp hs] at h
    cases h
    exact ⟨rfl, rfl⟩

theorem commandRow_of_done (h : verdictOf p latch i ch = .done ch') : commandRow i ch ch' := by
  cases i with
  | nop hint =>
    cases h
    exact rfl
  | start mode =>
    obtain ⟨hs, rfl⟩ := startPass_done h
    simp [commandRow, hs]
  | end_ =>
    obtain ⟨hs, rfl⟩ | ⟨hs, rfl⟩ := endPass_done h
    · simp [commandRow, hs, flush]
    · simp [commandRow, hs]
  | abort ignored =>
    cases h
    exact rfl
  | enc o => exact dataRow_of_done rfl h
  | qenc o => exact dataRow_of_done rfl h
  | senc hop => exact dataRow_of_done rfl h
  | dec y => exact dataRow_of_done rfl h
  | qdec hop => exact dataRow_of_done rfl h
  | sdec y => exact dataRow_of_done rfl h

theorem commandRow_of_raise {code : ErrCode} (hf : ch.state ≠ .fault)
    (h : verdictOf p latch i ch = .raise code) : commandRow i ch (ch.enterFault code) := by
  cases i with
  | nop hint => cases h
  | start mode =>
    obtain ⟨hs, rfl⟩ | ⟨hs, rfl⟩ := startPass_raise h
    · simp [commandRow, hs, raised]
    · simp [commandRow, hs, raised]
  | end_ =>
    obtain ⟨hs, rfl⟩ := endPass_raise h
    simp [commandRow, hs.resolve_right hf, raised]
  | abort ignored => cases h
  | enc o => exact dataRow_of_raise rfl h
  | qenc o => exact dataRow_of_raise rfl h
  | senc hop => exact dataRow_of_raise rfl h
  | dec y => exact dataRow_of_raise rfl h
  | qdec hop => exact dataRow_of_raise rfl h
  | sdec y => exact dataRow_of_raise rfl h

theorem stateTable_ok (hi : ∀ ignored, i ≠ .abort ignored) (before after : Channel) :
    stateTable (.ok i) before after ↔
      if before.state = .fault then after = before else commandRow i before after := by
  cases i with
  | abort ignored => exact absurd rfl (hi ignored)
  | _ => exact Iff.rfl

end Table

/-- The table for a command, on the channel that executes it. -/
theorem exec_stateTable {i : Instr} {s t : State} (h : exec i s = .next t) :
    stateTable (.ok i) s.act t.act := by
  obtain ⟨ignored, rfl⟩ | hi := abort_or_not i
  · cases h
    show (s.setCh s.active s.act.abortPass).act.state = .idle
    rw [State.act_setCh_active, Channel.abortPass_state]
  rw [stateTable_ok hi]
  split
  · next hf =>
    exact (exec_next_act_in_fault h hf).resolve_right fun ⟨⟨ignored, hab⟩, _⟩ => hi ignored hab
  · next hf =>
    obtain hdone | ⟨code, hraise, ht⟩ := exec_next_act h hf
    · exact commandRow_of_done hdone
    · rw [ht]
      exact commandRow_of_raise hf hraise

/-- The table for a word that is no command. -/
theorem execIllegal_stateTable {s t : State} (h : execIllegal s = .next t) (e : Illegal) :
    stateTable (.error e) s.act t.act := by
  rw [stateTable]
  obtain ⟨hf, rfl⟩ | ⟨hf, ⟨ch, hdone, -⟩ | ⟨code, hraise, rfl⟩⟩ := onActive_next h
  · rw [if_pos (show t.act.state = .fault from hf)]
  · cases hdone
  · cases hraise
    rw [if_neg (show s.act.state ≠ .fault from hf), State.act_setCh_active]
    exact ⟨rfl, rfl⟩

theorem execIllegal_active {s t : State} (h : execIllegal s = .next t) : t.active = s.active := by
  obtain ⟨-, rfl⟩ | ⟨-, ⟨ch, -, rfl⟩ | ⟨code, -, rfl⟩⟩ := onActive_next h
  · rfl
  · exact s.setCh_active _ _
  · exact s.setCh_active _ _

/-- Settles O17: the channel that runs the word is the one that takes it. -/
theorem passStateTable : Obligations.PassStateTable := by
  intro s t c q rest h
  rw [← State.act_taken s c q rest]
  cases hq : decode q.word with
  | ok i =>
    rw [runWord_of_ok hq] at h
    have hact : t.ch c = t.act := by rw [State.act, exec_active h, State.taken_active]
    rw [hact]
    exact exec_stateTable h
  | error e =>
    rw [runWord_of_error hq] at h
    have hact : t.ch c = t.act := by rw [State.act, execIllegal_active h, State.taken_active]
    rw [hact]
    exact execIllegal_stateTable h e

/-! ### `SYM_COUNT` (R111) -/

theorem symBytes_append (ws vs : List Word) : symBytes (ws ++ vs) = symBytes ws ++ symBytes vs := by
  simp [symBytes]

theorem length_symBytes_symWords {ws : List Word} (h : ∀ w ∈ ws, ∃ y, w = symWord y) :
    (symBytes ws).length = ws.length := by
  rw [symBytes, List.length_map, List.filter_eq_self.2]
  intro w hw
  obtain ⟨y, rfl⟩ := h w hw
  rw [symWord, kindOf_outWord, beq_self_eq_true]

theorem symBytes_qrecWord (hop : Nibble) (recon : Half) : symBytes [qrecWord hop recon] = [] := by
  simp [symBytes, qrecWord, kindOf_outWord, OutKind.code]

/-- What is emitted between two states of a channel has as many SYM words as `SYM_COUNT` grew by,
modulo `2^32` (log entry 11). -/
def CountsSyms (before after : Channel) : Prop :=
  ∃ new, after.emitted = before.emitted ++ new ∧
    after.symCount = before.symCount + BitVec.ofNat 32 (symBytes new).length

section CountsSyms

variable {a b c : Channel}

theorem CountsSyms.of_eq (he : b.emitted = a.emitted) (hc : b.symCount = a.symCount) :
    CountsSyms a b :=
  ⟨[], by rw [he, List.append_nil], by rw [hc]; exact (BitVec.add_zero _).symm⟩

theorem CountsSyms.trans (hab : CountsSyms a b) (hbc : CountsSyms b c) : CountsSyms a c := by
  obtain ⟨new, he, hc⟩ := hab
  obtain ⟨new', he', hc'⟩ := hbc
  refine ⟨new ++ new', by rw [he', he, List.append_assoc], ?_⟩
  rw [hc', hc, symBytes_append, List.length_append, BitVec.ofNat_add, BitVec.add_assoc]

theorem countsSyms_emitSym (ch : Channel) (y : Byte) : CountsSyms ch (ch.emitSym y) := by
  refine ⟨[symWord y], rfl, ?_⟩
  rw [length_symBytes_symWords (by simp)]
  rfl

theorem countsSyms_emitCenters (ch : Channel) (n : Nat) : CountsSyms ch (ch.emitCenters n) := by
  refine ⟨List.replicate n (symWord 0), rfl, ?_⟩
  rw [length_symBytes_symWords fun w hw => ⟨0, List.eq_of_mem_replicate hw⟩, List.length_replicate]
  rfl

theorem countsSyms_quantEmit (p : Params) (ch : Channel) (o : Half) :
    CountsSyms ch (quantEmit p ch o) := by
  refine ⟨[qrecWord (quantOut p ch o).1 (quantOut p ch o).2], rfl, ?_⟩
  rw [symBytes_qrecWord]
  exact (BitVec.add_zero _).symm

theorem countsSyms_breakRun (ch : Channel) : CountsSyms ch (breakRun ch) := by
  unfold breakRun
  split
  · exact .of_eq rfl rfl
  · exact countsSyms_emitCenters ch _

theorem countsSyms_symEncStep (ch : Channel) (hop : Nibble) :
    CountsSyms ch (symEncStep ch hop) := by
  unfold symEncStep
  extract_lets y
  split_ifs
  · exact countsSyms_emitSym ch metaSym
  · exact .of_eq rfl rfl
  · exact (countsSyms_breakRun ch).trans (countsSyms_emitSym _ y)

end CountsSyms

section SymCount

variable {p : Params} {latch : PassConfig} {ch ch' : Channel} {i : Instr}

/-- A data command does not complete outside its pass. -/
theorem not_done_outside_pass {pass : ChState} (hp : passOf i = some pass) (hs : ch.state ≠ pass) :
    verdictOf p latch i ch ≠ .done ch' :=
  fun h => hs (verdictOf_data_done hp h).1

theorem symCount_done_idle (hs : ch.state = .idle) (h : verdictOf p latch i ch = .done ch')
    (hi : ∀ mode, i ≠ .start mode) : ch'.symCount = ch.symCount := by
  cases i with
  | nop hint => cases h; rfl
  | start mode => exact absurd rfl (hi mode)
  | end_ => obtain ⟨hopen, -⟩ | ⟨hopen, -⟩ := endPass_done h <;> cases hs.symm.trans hopen
  | abort ignored => cases h; rfl
  | _ => exact absurd h (not_done_outside_pass rfl (by simp [hs]))

theorem countsSyms_done_encode (hs : ch.state = .encode) (h : verdictOf p latch i ch = .done ch') :
    CountsSyms ch ch' := by
  cases i with
  | nop hint => cases h; exact .of_eq rfl rfl
  | start mode => cases hs.symm.trans (startPass_done h).1
  | end_ =>
    obtain ⟨-, rfl⟩ | ⟨hd, -⟩ := endPass_done h
    · exact countsSyms_emitCenters ch _
    · cases hs.symm.trans hd
  | abort ignored => cases h; exact .of_eq rfl rfl
  | enc o =>
    rw [(encOn_done h).2]
    exact (countsSyms_quantEmit p ch o).trans (countsSyms_symEncStep _ _)
  | qenc o => rw [(qencOn_done h).2]; exact countsSyms_quantEmit p ch o
  | senc hop => rw [(sencOn_done h).2]; exact countsSyms_symEncStep ch hop
  | _ => exact absurd h (not_done_outside_pass rfl (by simp [hs]))

theorem symDecStep_symCount (ch : Channel) (y : Byte) :
    (symDecStep ch y).symCount = ch.symCount + 1 := by
  unfold symDecStep
  split_ifs <;> rfl

/-- A symbol that a decode pass accepts (R99, R171). -/
theorem symCount_done_accepts (hi : ∃ y, i = .dec y ∨ i = .sdec y)
    (h : verdictOf p latch i ch = .done ch') : ch'.symCount = ch.symCount + 1 := by
  obtain ⟨y, rfl | rfl⟩ := hi
  · rw [(decOn_done h).2, (reconAll_frame p _ _).2, symDecStep_symCount]
  · rw [(sdecOn_done h).2, Channel.emitAll_symCount, symDecStep_symCount]

theorem symCount_done_decode (hs : ch.state = .decode) (h : verdictOf p latch i ch = .done ch')
    (hi : ¬ ∃ y, i = .dec y ∨ i = .sdec y) : ch'.symCount = ch.symCount := by
  cases i with
  | nop hint => cases h; rfl
  | start mode => cases hs.symm.trans (startPass_done h).1
  | end_ =>
    obtain ⟨he, -⟩ | ⟨-, rfl⟩ := endPass_done h
    · cases hs.symm.trans he
    · rfl
  | abort ignored => cases h; rfl
  | dec y => exact absurd ⟨y, .inl rfl⟩ hi
  | qdec hop => rw [(qdecOn_done h).2]; rfl
  | sdec y => exact absurd ⟨y, .inr rfl⟩ hi
  | _ => exact absurd h (not_done_outside_pass rfl (by simp [hs]))

end SymCount

/-- Settles O37: state by state, a command was done or raised a fault, which leaves the count. -/
theorem symCountRule : Obligations.SymCountRule := by
  intro i s t h
  refine ⟨fun hs => ?_, fun hs => ?_, fun hs => ?_, fun hs => ?_⟩
  · obtain hdone | ⟨code, -, ht⟩ := exec_next_act h (by simp [hs])
    · refine ⟨?_, symCount_done_idle hs hdone⟩
      rintro mode rfl -
      rw [(startPass_done hdone).2]
      rfl
    · exact ⟨fun _ _ hopen => absurd (by rw [ht]; rfl) hopen, fun _ => by rw [ht]; rfl⟩
  · obtain hdone | ⟨code, -, ht⟩ := exec_next_act h (by simp [hs])
    · exact countsSyms_done_encode hs hdone
    · exact ht ▸ CountsSyms.of_eq rfl rfl
  · intro accepts
    obtain hdone | ⟨code, -, ht⟩ := exec_next_act h (by simp [hs])
    · refine ⟨fun hacc => symCount_done_accepts hacc.1 hdone, fun hacc => ?_⟩
      refine symCount_done_decode hs hdone fun hi => hacc ⟨hi, ?_⟩
      obtain ⟨y, rfl | rfl⟩ := hi
      · exact (verdictOf_data_done rfl hdone).2
      · exact (verdictOf_data_done rfl hdone).2
    · refine ⟨fun ⟨_, hopen⟩ => ?_, fun _ => by rw [ht]; rfl⟩
      rw [ht] at hopen
      cases hopen
  · obtain ht | ⟨-, ht⟩ := exec_next_act_in_fault h hs
    · rw [ht]
    · rw [ht]; rfl

/-! ### What a command depends on (R113) -/

/-- Only a START reads the configuration it would latch. -/
theorem verdictOf_congr_latch (p : Params) {c c' : PassConfig} {i : Instr}
    (h : ∀ mode, i = .start mode → c = c') : verdictOf p c i = verdictOf p c' i := by
  cases i with
  | start mode => rw [h mode rfl]
  | _ => rfl

/-- A command that runs as a verdict ends alike on two states whose executing channels are equal. -/
theorem onActive_congr_act {s1 s2 : State} (f : Channel → Verdict) (h : s1.act = s2.act) :
    (∀ t1, onActive s1 f = .next t1 → ∃ t2, onActive s2 f = .next t2 ∧ t2.act = t1.act) ∧
      ∀ why, onActive s1 f = .refused why → onActive s2 f = .refused why := by
  by_cases hf : s1.act.state = .fault
  · have hf2 : s2.act.state = .fault := h ▸ hf
    rw [onActive_in_fault hf, onActive_in_fault hf2]
    refine ⟨fun t1 ht => ⟨s2, rfl, ?_⟩, fun why hw => by cases hw⟩
    cases ht
    exact h.symm
  · have hf2 : s2.act.state ≠ .fault := h ▸ hf
    cases hv : f s1.act with
    | done ch =>
      have hv2 : f s2.act = .done ch := h ▸ hv
      rw [onActive_of_done hf hv, onActive_of_done hf2 hv2]
      refine ⟨fun t1 ht => ⟨_, rfl, ?_⟩, fun why hw => by cases hw⟩
      cases ht
      rw [State.act_setCh_active, State.act_setCh_active]
    | raise code =>
      have hv2 : f s2.act = .raise code := h ▸ hv
      rw [onActive_act_of_raise hf hv, onActive_act_of_raise hf2 hv2]
      refine ⟨fun t1 ht => ⟨_, rfl, ?_⟩, fun why hw => by cases hw⟩
      cases ht
      rw [State.act_setCh_active, State.act_setCh_active, h]
    | refuse why =>
      have hv2 : f s2.act = .refuse why := h ▸ hv
      rw [onActive_of_refuse hf hv, onActive_of_refuse hf2 hv2]
      exact ⟨fun t1 ht => (by cases ht), fun _ => id⟩

/-- Settles O45: both runs have one verdict. -/
theorem channelNoninterference : Obligations.ChannelNoninterference := by
  intro i s1 s2 hact hparams hlatch
  obtain ⟨ignored, rfl⟩ | hi := abort_or_not i
  · refine ⟨fun t1 ht => ⟨s2.setCh s2.active s2.act.abortPass, rfl, ?_⟩,
      fun why hw => by cases hw⟩
    cases ht
    rw [State.act_setCh_active, State.act_setCh_active, ← State.act, hact]
  rw [exec_eq_onActive hi, exec_eq_onActive hi, hparams, verdictOf_congr_latch _ hlatch]
  exact onActive_congr_act _ (by rw [State.act_drawn, State.act_drawn, hact])

end Sys2Proof.Machine

/-! SUPPORT. The quantizer (41_quantizer.md R115 to R144; O18 to O25). In the order of a quantizer
step: the prediction, the offsets, the candidates, the selection, and then QENC and the checks that
it shares with ENC. -/

namespace Sys2Proof.Machine

/-! ### The prediction (R118, R119, R139) -/

theorem floorDiv_two_eq_floor (a : Int) : floorDiv a 2 = ⌊(a : ℚ) / 2⌋ :=
  (Rat.floor_intCast_div_natCast a 2).symm

/-- Settles O18: the halving is the integer division, which is a floor. -/
theorem predictionRule : Obligations.PredictionRule := by
  intro ch seed
  have hlater : 2 ≤ ch.idx.toNat → ch.idx ≠ 0 ∧ ch.idx ≠ 1 := fun h =>
    ⟨fun h0 => absurd h (by rw [h0]; decide), fun h1 => absurd h (by rw [h1]; decide)⟩
  refine ⟨fun h0 => if_pos h0, fun h1 => ?_, fun h2 hmode => ?_, fun h2 hmode => ?_⟩
  · rw [predict, if_neg (by rw [h1]; decide), if_pos h1]
  · rw [predict, if_neg (hlater h2).1, if_neg (hlater h2).2, hmode]
  · rw [predict, if_neg (hlater h2).1, if_neg (hlater h2).2, hmode, ← floorDiv_two_eq_floor]
    rfl

/-- Settles O25: a seed within the bounds starts a prediction within them. -/
theorem reconstructionInBounds : Obligations.ReconstructionInBounds := by
  intro p ch seed level h hseed
  obtain ⟨hlo, hhi⟩ := predict_bounds (cfgValid_minOf_le h.valid)
    (fun _ => (inBounds_iff _ _).1 hseed) h.last
  exact ⟨hlo, hhi, inBounds_reconOf p ch level hlo hhi⟩

/-! ### Integer roots (00_scope.md R13) -/

/-- The search keeps the root between what is known of it and the weight of the bits to come. -/
theorem irootBits_spec {x n : Nat} (bits : Nat) :
    ∀ known, known ^ n ≤ x → x < (known + 2 ^ bits) ^ n →
      irootBits x n bits known ^ n ≤ x ∧ x < (irootBits x n bits known + 1) ^ n := by
  induction bits with
  | zero => exact fun known hlo hhi => ⟨hlo, hhi⟩
  | succ bits ih =>
    intro known hlo hhi
    unfold irootBits
    split
    · next hbit => exact ih _ hbit (by rwa [add_assoc, ← two_mul, ← pow_succ'])
    · next hbit => exact ih _ hlo (not_le.1 hbit)

/-- `iroot(x, n)` is the greatest `t` with `t^n ≤ x`. -/
theorem le_iroot_iff {n : Nat} (hn : n ≠ 0) (x t : Nat) : t ≤ iroot x n ↔ t ^ n ≤ x := by
  have hstart : x < (0 + 2 ^ (Nat.log2 x / n + 1)) ^ n := by
    rw [zero_add, ← pow_mul, Nat.log2_eq_log_two]
    refine (Nat.lt_pow_succ_log_self (by decide) x).trans_le (Nat.pow_le_pow_right (by decide) ?_)
    exact Nat.lt_div_mul_add (Nat.pos_of_ne_zero hn) |>.trans_eq (by ring)
  obtain ⟨hlo, hhi⟩ := irootBits_spec _ 0 (by simp [hn]) hstart
  refine ⟨fun h => (Nat.pow_le_pow_left h n).trans hlo, fun h => ?_⟩
  exact Nat.lt_succ_iff.1 (lt_of_pow_lt_pow_left₀ n (Nat.zero_le _) (h.trans_lt hhi))

/-- R123: `floor(x^(1/n)) = iroot(floor(x), n)`, said of the real root `z` of `x`. -/
theorem iroot_floor_pow {n : Nat} (hn : n ≠ 0) {z : ℝ} (hz : 0 ≤ z) : iroot ⌊z ^ n⌋₊ n = ⌊z⌋₊ := by
  refine eq_of_forall_le_iff fun t => ?_
  rw [le_iroot_iff hn, Nat.le_floor_iff hz, Nat.le_floor_iff (pow_nonneg hz n), Nat.cast_pow,
    pow_le_pow_iff_left₀ t.cast_nonneg hz hn]

/-! ### The offsets (R122 to R124) -/

/-- The exact real ratio of R122 before its cap: `(f * d / STEP)^(1 / e)`. -/
noncomputable def exactRatio (c : PassConfig) (step : Half) (d : Nat) : ℝ :=
  ((c.rangeFactor.toNat : ℝ) / 65536 * d / step.toNat) ^
    (1 / ((c.expNum.toNat : ℝ) / c.expDen.toNat))

theorem exactRatio_nonneg (c : PassConfig) (step : Half) (d : Nat) : 0 ≤ exactRatio c step d :=
  Real.rpow_nonneg (by positivity) _

/-- With `e = p / q` the ratio's `p`-th power is rational: `(a / b)^q` in the terms of R123. -/
theorem exactRatio_pow {c : PassConfig} (hp : c.expNum.toNat ≠ 0) (step : Half) (d : Nat) :
    exactRatio c step d ^ c.expNum.toNat =
      (((c.rangeFactor.toNat * d : Nat) : ℝ) / (65536 * step.toNat : Nat)) ^ c.expDen.toNat := by
  have hbase : (c.rangeFactor.toNat : ℝ) / 65536 * d / step.toNat =
      ((c.rangeFactor.toNat * d : Nat) : ℝ) / (65536 * step.toNat : Nat) := by
    push_cast
    rw [div_mul_eq_mul_div, div_div]
  rw [exactRatio, hbase, ← Real.rpow_mul_natCast (by positivity), one_div_div,
    div_mul_cancel₀ _ (Nat.cast_ne_zero.2 hp), Real.rpow_natCast]

/-- R123: the integer comparison says whether the ratio reaches its cap. -/
theorem cap_le_exactRatio_iff {c : PassConfig} {step : Half} (hs : step.toNat ≠ 0)
    (hp : c.expNum.toNat ≠ 0) (d : Nat) :
    (c.maxRatio.toNat : ℝ) / 65536 ≤ exactRatio c step d ↔
      c.maxRatio.toNat ^ c.expNum.toNat * (65536 * step.toNat) ^ c.expDen.toNat ≤
        (c.rangeFactor.toNat * d) ^ c.expDen.toNat * 65536 ^ c.expNum.toNat := by
  rw [← pow_le_pow_iff_left₀ (by positivity) (exactRatio_nonneg c step d) hp, exactRatio_pow hp,
    div_pow, div_pow, div_le_div_iff₀ (by positivity) (by positivity)]
  exact_mod_cast Iff.rfl

/-- R123: the integer evaluation gives the floor of the exact real offset of R122. -/
theorem offsetPower_eq_floor {c : PassConfig} {step : Half} (hs : step.toNat ≠ 0)
    (hp : c.expNum.toNat ≠ 0) (d k : Nat) :
    offsetPower c step d k =
      ⌊(step.toNat : ℝ) *
        min ((c.maxRatio.toNat : ℝ) / 65536) (exactRatio c step d) ^ (k - 1)⌋₊ := by
  rw [offsetPower]
  split
  · next hcap =>
    rw [min_eq_left ((cap_le_exactRatio_iff hs hp d).2 hcap), div_pow, ← mul_div_assoc,
      ← Nat.floor_div_eq_div (K := ℝ)]
    push_cast
    rfl
  · next hcap =>
    have hy := exactRatio_nonneg c step d
    have hroot : ((step.toNat : ℝ) * exactRatio c step d ^ (k - 1)) ^ c.expNum.toNat =
        (step.toNat ^ c.expNum.toNat *
          (c.rangeFactor.toNat * d) ^ (c.expDen.toNat * (k - 1)) : Nat) /
        ((65536 * step.toNat) ^ (c.expDen.toNat * (k - 1)) : Nat) := by
      rw [mul_pow, pow_right_comm, exactRatio_pow hp, ← pow_mul, div_pow, ← mul_div_assoc]
      push_cast
      rfl
    rw [min_eq_right (not_le.1 (mt (cap_le_exactRatio_iff hs hp d).1 hcap)).le,
      ← iroot_floor_pow hp (by positivity), hroot, Nat.floor_div_eq_div]

/-- Settles O19: R124 by the two first equations of `offsetOf`, R122 by the evaluation of R123. -/
theorem offsetFunction : Obligations.OffsetFunction := by
  refine ⟨fun p c step d => ⟨rfl, rfl⟩, fun p c step d k href hstep hnum _ hk => ?_⟩
  obtain ⟨k, rfl⟩ := Nat.exists_eq_add_of_le' hk
  have hoffset : offsetOf p c step d (k + 2) = offsetPower c step d (k + 2) := by
    rw [offsetOf, href]
  have hratio := exactRatio_nonneg c step d
  rw [hoffset, offsetPower_eq_floor (by omega) (by omega),
    Int.natCast_floor_eq_floor (by positivity)]
  rfl

/-! ### The candidates (R125 to R127) -/

theorem clampC_of_small {c : PassConfig} (h : rangeOf c < 2) (hop0u v : Int) :
    clampC c hop0u v = hop0u := if_pos h

theorem clampC_of_large {c : PassConfig} (h : 2 ≤ rangeOf c) (hop0u v : Int) :
    clampC c hop0u v = min (max v 1) (rangeOf c - 1) := if_neg (not_lt.2 h)

section Candidates

variable (p : Params) (ch : Channel) (hop0u : Int)

theorem cand_zero : cand p ch hop0u 0 = hop0u := if_pos rfl

variable {level : Int}

theorem cand_of_pos (h : 0 < level) :
    cand p ch hop0u level = clampC ch.cfg hop0u
      (hop0u + offsetOf p ch.cfg ch.stepSize (rangeOf ch.cfg - hop0u).toNat level.natAbs) := by
  rw [cand, if_neg h.ne', if_pos h]
  rfl

theorem cand_of_neg (h : level < 0) :
    cand p ch hop0u level = clampC ch.cfg hop0u
      (hop0u - offsetOf p ch.cfg ch.stepSize hop0u.toNat level.natAbs) := by
  rw [cand, if_neg h.ne, if_neg h.not_gt]
  rfl

theorem cand_of_small (h : rangeOf ch.cfg < 2) : cand p ch hop0u level = hop0u := by
  obtain hneg | rfl | hpos := lt_trichotomy level 0
  · rw [cand_of_neg p ch hop0u hneg, clampC_of_small h]
  · exact cand_zero p ch hop0u
  · rw [cand_of_pos p ch hop0u hpos, clampC_of_small h]

end Candidates

/-- Settles O20: `cand` by the sign of the level. -/
theorem candidateRule : Obligations.CandidateRule := by
  intro p ch hop0u level range offset
  refine ⟨fun h => ?_, cand_of_small p ch hop0u, fun hr h => ?_, fun hr h => ?_⟩
  · rw [h, cand_zero]
  · exact (cand_of_pos p ch hop0u h).trans (clampC_of_large hr hop0u _)
  · exact (cand_of_neg p ch hop0u h).trans (clampC_of_large hr hop0u _)

/-! ### The selection (R120, R128 to R130) -/

/-- What it is for level `k + 1` to improve on level `k` (R128, R130). -/
def ImprovesAt (tie : Tie) (err : Nat → Nat) (outermost k : Nat) : Prop :=
  if k + 1 = outermost ∧ tie = .outer then err (k + 1) ≤ err k else err (k + 1) < err k

theorem improves_iff_improvesAt (tie : Tie) (err : Nat → Nat) {outermost left k : Nat}
    (hk : k + (left + 1) = outermost) :
    improves tie (left == 0) (err (k + 1)) (err k) = true ↔ ImprovesAt tie err outermost k := by
  have hlast : k + 1 = outermost ↔ left = 0 := by omega
  cases tie with
  | inner => simp [improves, ImprovesAt]
  | outer => by_cases hl : left = 0 <;> simp [improves, ImprovesAt, hlast, hl, le_iff_lt_or_eq]

/-- From a level `j` whose error is the best so far, `left` levels away from the outermost, the scan
goes out as long as each level improves on the one before. -/
theorem scanLevels_spec (tie : Tie) (err : Nat → Nat) {outermost left : Nat} :
    ∀ j, j + left = outermost →
      ∃ k, scanLevels tie err left (j + 1) j (err j) = k ∧ j ≤ k ∧ k ≤ outermost ∧
        (∀ i, j ≤ i → i < k → ImprovesAt tie err outermost i) ∧
        (k < outermost → ¬ ImprovesAt tie err outermost k) := by
  induction left with
  | zero =>
    exact fun j hj => ⟨j, rfl, le_rfl, hj.le, fun i h1 h2 => absurd h1 h2.not_ge,
      fun h => absurd hj h.ne⟩
  | succ left ih =>
    intro j hj
    rw [scanLevels]
    split
    · next himp =>
      obtain ⟨k, hscan, hlow, hhigh, hup, hstop⟩ := ih (j + 1) (by omega)
      refine ⟨k, hscan, by omega, hhigh, fun i hi hik => ?_, hstop⟩
      obtain rfl | hne := eq_or_ne i j
      · exact (improves_iff_improvesAt tie err hj).1 himp
      · exact hup i (by omega) hik
    · next himp =>
      exact ⟨j, rfl, le_rfl, by omega, fun i h1 h2 => absurd h1 h2.not_ge,
        fun _ => mt (improves_iff_improvesAt tie err hj).2 himp⟩

/-- The error of the `k`-th level outward in the direction of the scan (R120, R128). -/
def levelErr (p : Params) (ch : Channel) (o hop0 : Int) (k : Nat) : Nat :=
  (o - minOf ch.cfg - cand p ch (hop0 - minOf ch.cfg) ((dirOf o hop0).sign * k)).natAbs

theorem selectLevel_spec (p : Params) (ch : Channel) (o hop0 : Int) :
    ∃ k ≤ kOf ch.cfg, selectLevel p ch o hop0 = (dirOf o hop0).sign * k ∧
      (∀ j < k, ImprovesAt (tieOf p.outerTie (nlOf ch.cfg)) (levelErr p ch o hop0) (kOf ch.cfg) j) ∧
      (k < kOf ch.cfg →
        ¬ ImprovesAt (tieOf p.outerTie (nlOf ch.cfg)) (levelErr p ch o hop0) (kOf ch.cfg) k) := by
  obtain ⟨k, hscan, -, hle, hup, hstop⟩ :=
    scanLevels_spec (tieOf p.outerTie (nlOf ch.cfg)) (levelErr p ch o hop0) 0 (zero_add (kOf ch.cfg))
  exact ⟨k, hle, congrArg (fun n : Nat => (dirOf o hop0).sign * (n : Int)) hscan,
    fun j => hup j (Nat.zero_le j), hstop⟩

theorem dirOf_sign (o hop0 : Int) : (dirOf o hop0).sign = if hop0 ≤ o then 1 else -1 := by
  unfold dirOf
  split <;> rfl

/-- The tie rule is no argument of the offsets, and so none of the reconstruction (R130). -/
theorem reconStep_outerTie (p : Params) (ch : Channel) (h : Nibble) (tie : OuterTie) :
    reconStep { p with outerTie := tie } ch h = reconStep p ch h := rfl

theorem tieOf_default (nl : Nat) : tieOf Params.default.outerTie nl = .inner := by
  unfold tieOf
  split <;> rfl

/-- Settles O21: the scan from the center. -/
theorem greedySelection : Obligations.GreedySelection := by
  refine ⟨fun p ch o hop0 => ?_, tieOf_default, reconStep_outerTie⟩
  rw [← dirOf_sign]
  exact selectLevel_spec p ch o hop0

theorem levelErr_zero (p : Params) (ch : Channel) (o hop0 : Int) :
    levelErr p ch o hop0 0 = (o - hop0).natAbs := by
  rw [levelErr, Nat.cast_zero, mul_zero, cand_zero, sub_sub_sub_cancel_right]

/-- Nothing improves on an error of 0 but an outermost level under OUTER. -/
theorem not_improvesAt_of_err_eq_zero {tie : Tie} {err : Nat → Nat} {outermost k : Nat}
    (herr : err k = 0) (htie : tie = .inner ∨ k + 1 < outermost) :
    ¬ ImprovesAt tie err outermost k := by
  have hstrict : ¬ (k + 1 = outermost ∧ tie = .outer) := by
    rintro ⟨hk, rfl⟩
    exact htie.elim (fun h => by cases h) hk.not_lt
  rw [ImprovesAt, if_neg hstrict, herr]
  exact Nat.not_lt_zero _

/-- A sample equal to its prediction gets the null level (R138). -/
theorem selectLevel_self {p : Params} {ch : Channel} (o : Int)
    (htie : tieOf p.outerTie (nlOf ch.cfg) = .inner ∨ 2 ≤ kOf ch.cfg) :
    selectLevel p ch o o = 0 := by
  obtain ⟨k, -, hselect, hup, -⟩ := selectLevel_spec p ch o o
  have herr : levelErr p ch o o 0 = 0 := by rw [levelErr_zero, sub_self, Int.natAbs_zero]
  obtain rfl | hk := Nat.eq_zero_or_pos k
  · rw [hselect, Nat.cast_zero, mul_zero]
  · exact absurd (hup 0 hk) (not_improvesAt_of_err_eq_zero herr htie)

/-! ### QENC and the checks of a sample command (R132, R136, R137, R144) -/

/-- R132: the subtraction of naturals, floored at `STEP_MIN`, is that of unbounded integers. -/
theorem nextStep_eq (ch : Channel) (level : Int) :
    nextStep ch level =
      if level.natAbs ≤ ch.cfg.shrinkBand.toNat ∧ ch.lws = true then
        BitVec.ofInt 16 (max ((ch.stepSize.toNat : Int) - ch.cfg.stepDec.toNat) ch.cfg.stepMin.toNat)
      else ch.cfg.stepMax := by
  have hmax : max ((ch.stepSize.toNat : Int) - ch.cfg.stepDec.toNat) ch.cfg.stepMin.toNat =
      (max (ch.stepSize.toNat - ch.cfg.stepDec.toNat) ch.cfg.stepMin.toNat : Nat) := by omega
  rw [hmax, BitVec.ofInt_natCast]
  simp only [nextStep, Channel.updateStep, isSmall, Bool.and_eq_true, decide_eq_true_eq]

theorem toHalf_toInt (o : Half) : toHalf o.toInt = o := BitVec.ofInt_toInt

/-- The center reconstructs to the prediction (R126, R131). -/
theorem reconOf_zero (p : Params) (ch : Channel) (hop0 : Int) :
    reconOf p ch hop0 0 = toHalf hop0 := by
  rw [reconOf, cand_zero, sub_add_cancel]

theorem hopOfLevel_zero (c : PassConfig) : hopOfLevel c 0 = nullHop c := by
  rw [hopOfLevel, add_zero, BitVec.ofInt_natCast, nullHop]

section SampleCommands

variable {p : Params} {latch : PassConfig} {ch : Channel} {o : Half} {i : Instr}

theorem qencOn_of_accepted (hs : ch.state = .encode) (ho : inBounds ch.cfg o = true)
    (hcount : ch.idx.toNat + 1 ≤ ch.cfg.sampleCount.toNat) :
    qencOn p o ch = .done (quantEmit p ch o) := by
  have hover : ¬ overCount ch 1 = true := by rwa [overCount, decide_eq_true_eq, not_lt]
  rw [qencOn, if_neg (not_not.2 hs), if_neg (by rw [ho]; decide), if_neg hover]
  rfl

/-- QENC on a sample it accepts is the quantizer's step with its QREC word. -/
theorem exec_qenc_of_accepted {s : State} (hs : s.act.state = .encode)
    (ho : inBounds s.act.cfg o = true)
    (hcount : s.act.idx.toNat + 1 ≤ s.act.cfg.sampleCount.toNat) :
    exec (.qenc o) s = .next (s.setCh s.active (quantEmit s.params s.act o)) :=
  onActive_of_done (ne_of_eq_of_ne hs (by decide)) (qencOn_of_accepted hs ho hcount)

theorem verdictOf_sample_raise_sample (hi : i = .qenc o ∨ i = .enc o) (hs : ch.state = .encode)
    (ho : inBounds ch.cfg o = false) : verdictOf p latch i ch = .raise .sample := by
  rcases hi with rfl | rfl <;> exact (if_neg (not_not.2 hs)).trans (if_pos ho)

theorem verdictOf_sample_raise_count (hi : i = .qenc o ∨ i = .enc o) (hs : ch.state = .encode)
    (ho : inBounds ch.cfg o = true) (hcount : overCount ch 1 = true) :
    verdictOf p latch i ch = .raise .count := by
  rcases hi with rfl | rfl <;>
    exact (if_neg (not_not.2 hs)).trans
      ((if_neg (by rw [ho]; decide)).trans (if_pos hcount))

/-- A sample command outside FAULT whose verdict is a fault enters FAULT and does nothing else. -/
theorem exec_sample_of_raise {s : State} {code : ErrCode} (hi : i = .qenc o ∨ i = .enc o)
    (hf : s.act.state ≠ .fault) (hv : verdictOf s.params s.latched i s.act = .raise code) :
    exec i s = .next (s.setCh s.active (s.act.enterFault code)) := by
  rcases hi with rfl | rfl <;> exact onActive_act_of_raise hf hv

end SampleCommands

/-- Settles O23: the first check that fails gives the code. -/
theorem sampleCommandFaults : Obligations.SampleCommandFaults := by
  intro s o i hi faults
  have hpass : passOf i = some .encode := by rcases hi with rfl | rfl <;> rfl
  refine ⟨fun hs => ?_, fun hs hout => ?_, fun hs ho hcount => ?_⟩
  · have hne : s.act.state ≠ .encode ∧ s.act.state ≠ .fault := by
      rcases hs with hs | hs <;> rw [hs] <;> decide
    exact exec_sample_of_raise hi hne.2 (verdictOf_outside_pass hpass hne.1)
  · have ho : inBounds s.act.cfg o = false := by
      rw [← Bool.not_eq_true, inBounds_iff, not_and_or, not_le, not_le]
      exact hout
    exact exec_sample_of_raise hi (ne_of_eq_of_ne hs (by decide))
      (verdictOf_sample_raise_sample hi hs ho)
  · exact exec_sample_of_raise hi (ne_of_eq_of_ne hs (by decide))
      (verdictOf_sample_raise_count hi hs ho (decide_eq_true hcount))

/-- Settles O22: the channel after a quantizer step, its step size and its QREC word written out. -/
theorem qencResult : Obligations.QencResult := by
  intro s o hs ho hcount hop0 level recon word small
  have hword : qrecWord (quantOut s.params s.act o).1 (quantOut s.params s.act o).2 = word :=
    outputWords.1 _ _
  refine ⟨_, exec_qenc_of_accepted hs ho hcount, ?_, ?_⟩
  · rw [quantEmit, hword, quantStep_eq, nextStep_eq]
    rfl
  · rw [regRead, State.ch_setCh_same, chRead_recon]
    rfl

/-- Settles O24: the first prediction of a pass is the sample itself. -/
theorem firstSampleIsNull : Obligations.FirstSampleIsNull := by
  intro s o hs hidx ho hcount htie
  have hpredict : predict s.act o.toInt = o.toInt := if_pos hidx
  have hlevel : quantLevel s.params s.act o = 0 := by
    rw [quantLevel, hpredict, selectLevel_self _ htie]
  have hout : quantOut s.params s.act o = (nullHop s.act.cfg, o) := by
    rw [quantOut, hlevel, hopOfLevel_zero, reconOf_zero, hpredict, toHalf_toInt]
  refine ⟨_, exec_qenc_of_accepted hs ho (by rwa [hidx]), ?_⟩
  rw [State.act_setCh_active, quantEmit, quantStep_eq, hout, if_pos hidx]
  exact ⟨rfl, rfl, rfl⟩

end Sys2Proof.Machine

/-! SUPPORT. The reconstructor (42_reconstructor.md R145 to R154; O27 to O30). First QDEC and the
checks that it shares with SENC, then one sample fed from the quantizer to the reconstructor, and
then a whole pass, sample by sample. -/

namespace Sys2Proof.Machine

/-! ### QDEC and the checks of a hop command (R149, R151, R167, R196) -/

section HopCommands

variable {p : Params} {latch : PassConfig} {ch : Channel} {hop : Nibble} {i : Instr} {s : State}

theorem not_hopOutOfRange (h : hop.toNat < nlOf ch.cfg) :
    ¬ hopOutOfRange ch.cfg hop = true := by
  rwa [hopOutOfRange, decide_eq_true_eq, not_le]

theorem qdecOn_of_accepted (hs : ch.state = .decode) (hhop : hop.toNat < nlOf ch.cfg)
    (hcount : ch.idx.toNat + 1 ≤ ch.cfg.sampleCount.toNat) :
    qdecOn p hop ch = .done (reconEmit p ch hop) := by
  have hover : ¬ overCount ch 1 = true := by rwa [overCount, decide_eq_true_eq, not_lt]
  rw [qdecOn, if_neg (not_not.2 hs), if_neg (not_hopOutOfRange hhop), if_neg hover]

/-- QDEC on a hop it accepts is the reconstructor's step with its DREC word. -/
theorem exec_qdec_of_accepted (hs : s.act.state = .decode) (hhop : hop.toNat < nlOf s.act.cfg)
    (hcount : s.act.idx.toNat + 1 ≤ s.act.cfg.sampleCount.toNat) :
    exec (.qdec hop) s = .next (s.setCh s.active (reconEmit s.params s.act hop)) :=
  onActive_of_done (ne_of_eq_of_ne hs (by decide)) (qdecOn_of_accepted hs hhop hcount)

theorem verdictOf_hop_raise_hop (hi : i = .qdec hop ∨ i = .senc hop)
    (hs : passOf i = some ch.state) (hhop : nlOf ch.cfg ≤ hop.toNat) :
    verdictOf p latch i ch = .raise .hop := by
  rcases hi with rfl | rfl <;>
    exact (if_neg (not_not.2 (Option.some.inj hs).symm)).trans (if_pos (decide_eq_true hhop))

theorem verdictOf_qdec_raise_count (hs : ch.state = .decode) (hhop : hop.toNat < nlOf ch.cfg)
    (hcount : ch.cfg.sampleCount.toNat < ch.idx.toNat + 1) :
    verdictOf p latch (.qdec hop) ch = .raise .count :=
  (if_neg (not_not.2 hs)).trans
    ((if_neg (not_hopOutOfRange hhop)).trans (if_pos (decide_eq_true hcount)))

variable {pass : ChState}

/-- A data command outside FAULT whose verdict is a fault enters FAULT and does nothing else. -/
theorem exec_data_of_raise {code : ErrCode} (hp : passOf i = some pass)
    (hf : s.act.state ≠ .fault) (hv : verdictOf s.params s.latched i s.act = .raise code) :
    exec i s = .next (s.setCh s.active (s.act.enterFault code)) := by
  cases i <;> cases hp <;> exact onActive_act_of_raise hf hv

theorem exec_data_outside_pass (hp : passOf i = some pass) (hf : s.act.state ≠ .fault)
    (hs : s.act.state ≠ pass) : exec i s = .next (s.setCh s.active (s.act.enterFault .state)) :=
  exec_data_of_raise hp hf (verdictOf_outside_pass hp hs)

theorem exec_data_in_fault (hp : passOf i = some pass) (hf : s.act.state = .fault) :
    exec i s = .next s := by
  cases i <;> cases hp <;> exact onActive_in_fault hf

end HopCommands

/-- Settles O27: the channel after a reconstructor step, its step size and its DREC word written
out. -/
theorem qdecResult : Obligations.QdecResult := by
  intro s h hs hhop hcount level hop0 recon word small
  obtain ⟨-, -, hdrec, -⟩ := outputWords
  have hword : drecWord h (reconSample s.params s.act h) = word := hdrec h _
  rw [exec_qdec_of_accepted hs hhop hcount, reconEmit, hword, reconStep_eq, nextStep_eq]
  rfl

/-- Settles O28: the first check that fails gives the code. -/
theorem hopCommandFaults : Obligations.HopCommandFaults := by
  intro s h faults
  have hqdec : passOf (.qdec h) = some .decode := rfl
  have hsenc : passOf (.senc h) = some .encode := rfl
  refine ⟨fun hs => ?_, fun hs => ?_, fun hs hhop => ?_, fun hs hhop => ?_,
    fun hs hhop hcount => ?_⟩
  · have hne : s.act.state ≠ .fault ∧ s.act.state ≠ .decode := by
      rcases hs with hs | hs <;> rw [hs] <;> decide
    exact exec_data_outside_pass hqdec hne.1 hne.2
  · have hne : s.act.state ≠ .fault ∧ s.act.state ≠ .encode := by
      rcases hs with hs | hs <;> rw [hs] <;> decide
    exact exec_data_outside_pass hsenc hne.1 hne.2
  · exact exec_data_of_raise hqdec (ne_of_eq_of_ne hs (by decide))
      (verdictOf_hop_raise_hop (.inl rfl) (by rw [hs]; rfl) hhop)
  · exact exec_data_of_raise hsenc (ne_of_eq_of_ne hs (by decide))
      (verdictOf_hop_raise_hop (.inr rfl) (by rw [hs]; rfl) hhop)
  · exact exec_data_of_raise hqdec (ne_of_eq_of_ne hs (by decide))
      (verdictOf_qdec_raise_count hs hhop hcount)

/-! ### One sample (R150) -/

theorem nextStep_congr {a b : Channel} (level : Int) (hc : a.cfg = b.cfg)
    (hs : a.stepSize = b.stepSize) (hl : a.lws = b.lws) : nextStep a level = nextStep b level := by
  unfold nextStep Channel.updateStep
  rw [hc, hs, hl]

/-- Settles O29: the prediction and the level are the same on both sides, and nothing else of a
channel goes into the sample and the next predictor state. -/
theorem reconstructorReplaysSample : Obligations.ReconstructorReplaysSample := by
  intro p e d o hnl hcfg ⟨hidx, hr1, hr2, hstep, hlws⟩ hseed
  have hhop0 : reconHop0 d = predict e o.toInt :=
    predict_congr hcfg hidx.symm hr1.symm hr2.symm fun h => by rw [hseed (hidx.trans h)]
  have hlevel : levelOfHop d.cfg (quantOut p e o).1 = quantLevel p e o := by
    rw [hcfg, (quantizerHopInRange p e o hnl).2]
  have hsample : reconSample p d (quantOut p e o).1 = (quantOut p e o).2 := by
    rw [reconSample, hhop0, hlevel]
    exact reconOf_congr p _ _ hcfg hstep.symm
  rw [quantStep_eq, reconStep_eq, hlevel, hsample, hcfg]
  exact ⟨rfl, congrArg (· + 1) hidx, rfl, hr1, nextStep_congr _ hcfg.symm hstep hlws, rfl⟩

/-! ### A pass (R150, R154) -/

theorem runCommands_cons_of_next {i : Instr} {rest : List Instr} {s t : State}
    (h : exec i s = .next t) : runCommands (i :: rest) s = runCommands rest t := by
  rw [runCommands, h]

theorem runCommands_cons_next {i : Instr} {rest : List Instr} {s t : State}
    (h : runCommands (i :: rest) s = .next t) :
    ∃ m, exec i s = .next m ∧ runCommands rest m = .next t := by
  unfold runCommands at h
  split at h
  · exact ⟨_, ‹_›, h⟩
  · cases h
  · cases h

/-- In FAULT every sample of a pass is discarded (R108). -/
theorem runCommands_qenc_in_fault (os : List Half) {s : State} (hf : s.act.state = .fault) :
    runCommands (os.map .qenc) s = .next s := by
  induction os with
  | nil => rfl
  | cons o os ih => exact (runCommands_cons_of_next (exec_data_in_fault rfl hf)).trans ih

theorem qencOn_done_count {p : Params} {o : Half} {ch ch' : Channel}
    (h : qencOn p o ch = .done ch') : ch.idx.toNat + 1 ≤ ch.cfg.sampleCount.toNat := by
  unfold qencOn at h
  split_ifs at h with _ _ hover
  exact overCount_eq_false hover

/-- A QENC in ENCODE that does not fault was within the sample limit and is the quantizer's step. -/
theorem exec_qenc_next {s t : State} {o : Half} (h : exec (.qenc o) s = .next t)
    (hs : s.act.state = .encode) (ht : t.act.state ≠ .fault) :
    s.act.idx.toNat + 1 ≤ s.act.cfg.sampleCount.toNat ∧ t.act = quantEmit s.params s.act o := by
  obtain hdone | ⟨code, -, hraise⟩ := exec_next_act h (ne_of_eq_of_ne hs (by decide))
  · exact ⟨qencOn_done_count hdone, (qencOn_done hdone).2⟩
  · exact absurd (congrArg Channel.state hraise) ht

/-- Below the sample limit the index does not come back to that of a first sample (R109). -/
theorem idx_add_one_ne_zero {ch : Channel} (h : ch.idx.toNat + 1 ≤ ch.cfg.sampleCount.toNat) :
    ch.idx + 1 ≠ 0 := fun h0 => by
  have hidx := toNat_idx_add_one h
  rw [h0] at hidx
  exact absurd hidx (Nat.succ_ne_zero _).symm

/-- An encode pass and a decode pass that stand at the same point: what R150 asks of the two sides,
but for the seed, which is read at the first sample only. -/
structure Mirrors (s d : State) : Prop where
  params : s.params = d.params
  encode : s.act.state = .encode
  decode : d.act.state = .decode
  cfg : d.act.cfg = s.act.cfg
  alphabet : 1 ≤ nlOf s.act.cfg
  predictor : samePredictor s.act d.act

/-- A QENC that does not fault, its hop then fed to QDEC: the two passes stand at the same point
again, past their first sample, and have emitted the same hop and sample. -/
theorem Mirrors.sample {s m d : State} (h : Mirrors s d) {o : Half}
    (hseed : s.act.idx = 0 → d.act.firstAmp = o) (hexec : exec (.qenc o) s = .next m)
    (hm : m.act.state ≠ .fault) :
    ∃ hop recon d', exec (.qdec hop) d = .next d' ∧ Mirrors m d' ∧ m.act.idx ≠ 0 ∧
      m.act.outQ = s.act.outQ ++ [qrecWord hop recon] ∧
      d'.act.outQ = d.act.outQ ++ [drecWord hop recon] := by
  obtain ⟨hcount, hact⟩ := exec_qenc_next hexec h.encode hm
  obtain ⟨hhop, -⟩ := quantizerHopInRange s.params s.act o h.alphabet
  obtain ⟨hsample, hnext⟩ :=
    reconstructorReplaysSample s.params s.act d.act o h.alphabet h.cfg h.predictor hseed
  have hqdec := exec_qdec_of_accepted (hop := (quantOut s.params s.act o).1) h.decode
    (by rwa [h.cfg]) (by rwa [h.cfg, ← h.predictor.1])
  refine ⟨_, (quantOut s.params s.act o).2, _, hqdec, ?_, ?_, ?_, ?_⟩
  · rw [← h.params]
    exact {
      params := (exec_params hexec).trans (h.params.trans (d.setCh_params _ _).symm)
      encode := by rw [hact]; exact h.encode
      decode := by rw [State.act_setCh_active]; exact h.decode
      cfg := by rw [State.act_setCh_active, hact]; exact h.cfg
      alphabet := by rw [hact]; exact h.alphabet
      predictor := by rw [State.act_setCh_active, hact]; exact hnext }
  · rw [hact]
    exact idx_add_one_ne_zero hcount
  · rw [hact]
    rfl
  · rw [State.act_setCh_active, ← h.params, ← hsample]
    rfl

/-- A valid configuration has an alphabet (R103). -/
theorem cfgValid_one_le_nlOf {c : PassConfig} (h : cfgValid c = true) : 1 ≤ nlOf c := by
  simp only [cfgValid, Bool.and_eq_true, decide_eq_true_eq] at h
  omega

/-- Settles O30: by induction on the samples, from any point at which the two passes agree. -/
theorem passRoundTrip : Obligations.PassRoundTrip := by
  intro os s t d hparams hencode hdecode hcfg hvalid hsame hseed hrun ht
  have h : Mirrors s d :=
    ⟨hparams, hencode, hdecode, hcfg, cfgValid_one_le_nlOf hvalid, hsame⟩
  clear hparams hencode hdecode hcfg hvalid hsame
  induction os generalizing s d with
  | nil =>
    cases hrun
    exact ⟨[], rfl, (List.append_nil _).symm, d, rfl, h.decode, (List.append_nil _).symm,
      h.predictor⟩
  | cons o os ih =>
    obtain ⟨m, hexec, hrest⟩ := runCommands_cons_next hrun
    have hm : m.act.state ≠ .fault := fun hf => by
      rw [runCommands_qenc_in_fault os hf] at hrest
      cases hrest
      rw [hf] at ht
      cases ht
    obtain ⟨hop, recon, d', hqdec, hmirror, hidx, hqrec, hdrec⟩ :=
      h.sample (fun h0 => hseed h0 o rfl) hexec hm
    obtain ⟨out, hlen, hout, u, hu, hdecode, hrecons, hsame⟩ :=
      ih m d' (fun h0 => absurd h0 hidx) hrest hmirror
    refine ⟨(hop, recon) :: out, congrArg (· + 1) hlen, ?_, u,
      (runCommands_cons_of_next hqdec).trans hu, hdecode, ?_, hsame⟩
    · rw [hout, hqrec, List.append_assoc]
      rfl
    · rw [hrecons, hdrec, List.append_assoc]
      rfl

end Sys2Proof.Machine

/-! SUPPORT. The symbol codec (43_symbol_codec.md R155 to R179; O13, O31 to O36). First the symbols
as a channel emits them, END's among them, and the ranks of a valid table; then SENC and SDEC, case
by case; and from these equations the threshold schedule and the round trip. -/

namespace Sys2Proof.Machine

/-! ### Symbols as they are emitted (R98, R156, R166) -/

theorem symWord_eq (y : Byte) : symWord y = 0xA0000000#32 ||| y.setWidth 32 := by
  obtain ⟨-, hsym, -⟩ := outputWords
  exact hsym y

theorem symWord_zero : symWord 0 = 0xA0000000 := by decide

theorem symWord_metaSym : symWord metaSym = 0xA0000058 := by decide

theorem symWord_rankOf (c : PassConfig) (h : Nibble) :
    symWord (rankOf c h) = 0xA0000000#32 ||| (prioOf c h.toNat).setWidth 32 := by
  rw [symWord_eq, rankOf, BitVec.setWidth_setWidth (by decide)]

/-- Symbols emitted one after the other, and counted (R166). -/
def Channel.emitSyms (ch : Channel) (ys : List Byte) : Channel :=
  { ch.emitAll (ys.map symWord) with symCount := ch.symCount + BitVec.ofNat 32 ys.length }

theorem Channel.emitSym_eq (ch : Channel) (y : Byte) : ch.emitSym y = ch.emitSyms [y] := rfl

theorem Channel.emitCenters_eq (ch : Channel) (n : Nat) :
    ch.emitCenters n = ch.emitSyms (List.replicate n 0) := by
  rw [Channel.emitSyms, List.map_replicate, List.length_replicate, Channel.emitCenters]

theorem Channel.emitSyms_nil (ch : Channel) : ch.emitSyms [] = ch := by
  simp [Channel.emitSyms, Channel.emitAll]

theorem Channel.emitSyms_append (ch : Channel) (ys zs : List Byte) :
    (ch.emitSyms ys).emitSyms zs = ch.emitSyms (ys ++ zs) := by
  simp [Channel.emitSyms, Channel.emitAll, BitVec.ofNat_add, BitVec.add_assoc]

/-- The byte stream of symbols that were emitted is those symbols (R98). -/
theorem symBytes_map_symWord (ys : List Byte) : symBytes (ys.map symWord) = ys := by
  have hkind : ∀ w ∈ ys.map symWord, (kindOf w == OutKind.sym.code) = true := by
    simp [symWord, kindOf_outWord]
  have hdata : ∀ y, field (symWord y) 0 8 = y := fun y => by
    rw [symWord_eq, field_or, ← place_zero_eq_setWidth, field_place_same y (by decide)]
    exact BitVec.zero_or
  rw [symBytes, List.filter_eq_self.2 hkind, List.map_map]
  exact (List.map_congr_left fun y _ => hdata y).trans (List.map_id ys)

/-! ### The end of an encode pass (R105, R168) -/

/-- Settles O13: the flush is a run of symbols 0. -/
theorem endEncodeFlushes : Obligations.EndEncodeFlushes := by
  intro s hs
  have hdone : endPass s.act = .done { flush s.act with state := .idle, done := true } := by
    rw [endPass, hs]
  refine (onActive_of_done (ne_of_eq_of_ne hs (by decide)) hdone).trans ?_
  rw [flush, Channel.emitCenters, symWord_zero, BitVec.ofNat_toNat, BitVec.setWidth_eq]
  rfl

/-! ### The threshold (R161) -/

/-- Settles O31: `floor((x + 9) / 2)` is the least integer that is at least `(x + 8) / 2`. -/
theorem relaxRule : Obligations.RelaxRule := by
  intro x
  have hfloor : x.toNat + 8 ≤ 2 * ((x.toNat + 9) / 2) ∧ 2 * ((x.toNat + 9) / 2) < x.toNat + 10 := by
    omega
  have hle : ((x.toNat : ℚ) + 8) ≤ 2 * ((x.toNat + 9) / 2 : Nat) := by exact_mod_cast hfloor.1
  have hlt : (2 * ((x.toNat + 9) / 2 : Nat) : ℚ) < x.toNat + 10 := by exact_mod_cast hfloor.2
  rw [toNat_relaxX, eq_comm, Int.ceil_eq_iff, Int.cast_natCast]
  constructor <;> linarith

/-! ### Ranks of a valid priority table (R156 to R158) -/

section Ranks

variable {c : PassConfig} {h : Nibble}

theorem toNat_rankOf (c : PassConfig) (h : Nibble) :
    (rankOf c h).toNat = (prioOf c h.toNat).toNat := by
  rw [rankOf, BitVec.toNat_setWidth]
  exact Nat.mod_eq_of_lt (by omega)

theorem rankOf_eq_zero_iff (c : PassConfig) (h : Nibble) :
    rankOf c h = 0 ↔ prioOf c h.toNat = 0 := by
  rw [← BitVec.toNat_inj, ← BitVec.toNat_inj, toNat_rankOf]
  rfl

theorem cfgValid_prioValid (hc : cfgValid c = true) : prioValid c = true :=
  (Bool.and_eq_true _ _ ▸ hc).2

theorem rankOf_lt (hc : cfgValid c = true) (hh : h.toNat < nlOf c) :
    (rankOf c h).toNat < nlOf c := by
  obtain ⟨hlt, -, -⟩ := (prioValid_iff c).1 (cfgValid_prioValid hc)
  rw [toNat_rankOf]
  exact hlt _ hh

theorem eq_of_prioOf_eq (hc : cfgValid c = true) {a b : Nat} (ha : a < nlOf c) (hb : b < nlOf c)
    (hr : (prioOf c a).toNat = (prioOf c b).toNat) : a = b := by
  obtain ⟨hlt, honce, -⟩ := (prioValid_iff c).1 (cfgValid_prioValid hc)
  exact (honce _ (hlt b hb)).unique ⟨ha, hr⟩ ⟨hb, rfl⟩

/-- R157: a rank names the one hop index that has it. -/
theorem hopOf_eq (hc : cfgValid c = true) (hh : h.toNat < nlOf c) {y : Byte}
    (hy : (prioOf c h.toNat).toNat = y.toNat) : hopOf c y = h := by
  have hlen : (ranksOf c).length = nlOf c := by simp [ranksOf]
  have hfind : (ranksOf c).findIdx (fun rank => rank == y.toNat) = h.toNat := by
    refine (List.findIdx_eq (by rwa [hlen])).2 ⟨by simp [ranksOf, hy], fun j hj => ?_⟩
    have hne : (prioOf c j).toNat ≠ y.toNat := fun heq =>
      hj.ne (eq_of_prioOf_eq hc (hj.trans hh) hh (heq.trans hy.symm))
    simpa [ranksOf] using hne
  rw [hopOf, hfind, BitVec.ofNat_toNat, BitVec.setWidth_eq]

theorem toNat_nullHop (c : PassConfig) : (nullHop c).toNat = kOf c := by
  have hnl : nlOf c < 16 := c.numLevels.isLt
  rw [nullHop, BitVec.toNat_ofNat, kOf]
  exact Nat.mod_eq_of_lt (by omega)

theorem nullHop_lt (hnl : 1 ≤ nlOf c) : (nullHop c).toNat < nlOf c := by
  rw [toNat_nullHop, kOf]
  omega

theorem rankOf_nullHop (hc : cfgValid c = true) : rankOf c (nullHop c) = 0 := by
  obtain ⟨-, -, hzero⟩ := (prioValid_iff c).1 (cfgValid_prioValid hc)
  rw [rankOf_eq_zero_iff, toNat_nullHop]
  exact hzero

/-- R158: the center's rank is no other hop's. -/
theorem eq_nullHop_of_rankOf (hc : cfgValid c = true) (hh : h.toNat < nlOf c)
    (hr : rankOf c h = 0) : h = nullHop c := by
  have hnull := nullHop_lt (cfgValid_one_le_nlOf hc)
  refine BitVec.eq_of_toNat_eq (eq_of_prioOf_eq hc hh hnull ?_)
  rw [← toNat_rankOf, ← toNat_rankOf, hr, rankOf_nullHop hc]

end Ranks

/-! ### What SYMENC does to a channel (R160 to R166) -/

theorem run_eq_zero_iff (ch : Channel) : ch.run = 0 ↔ ch.run.toNat = 0 := BitVec.toNat_eq

/-- The threshold after a symbol that ends the pending run, if there is one (R163, R165). -/
def relaxedX (ch : Channel) : Word := if ch.run = 0 then ch.xlen else relaxX ch.xlen

theorem relaxedX_eq (ch : Channel) :
    relaxedX ch =
      if ch.run.toNat = 0 then ch.xlen else BitVec.ofNat 32 ((ch.xlen.toNat + 9) / 2) := by
  simp only [relaxedX, relaxX, run_eq_zero_iff]

theorem not_growBeyondSpec {ch : Channel} (hx : ch.xlen.toNat + 2 < 2 ^ 32) :
    ¬ growBeyondSpec ch = true :=
  fun hg => absurd (of_decide_eq_true hg) (not_le.2 hx)

theorem toNat_relaxedX_pos {ch : Channel} (h : ch.run.toNat < ch.xlen.toNat) :
    0 < (relaxedX ch).toNat := by
  unfold relaxedX
  split
  · omega
  · rw [toNat_relaxX]
    omega

/-- An encode pass after `n` null hops that do not complete a run (R164). -/
def Channel.afterNulls (ch : Channel) (n : Nat) : Channel :=
  { ch with run := ch.run + BitVec.ofNat 32 n }

@[simp] theorem Channel.afterNulls_fields (ch : Channel) (n : Nat) :
    (ch.afterNulls n).state = ch.state ∧ (ch.afterNulls n).cfg = ch.cfg ∧
      (ch.afterNulls n).xlen = ch.xlen ∧ (ch.afterNulls n).run = ch.run + BitVec.ofNat 32 n ∧
      (ch.afterNulls n).symCount = ch.symCount ∧ (ch.afterNulls n).outQ = ch.outQ :=
  ⟨rfl, rfl, rfl, rfl, rfl, rfl⟩

theorem Channel.afterNulls_afterNulls (ch : Channel) (n k : Nat) :
    (ch.afterNulls n).afterNulls k = ch.afterNulls (n + k) := by
  simp only [Channel.afterNulls, BitVec.ofNat_add, BitVec.add_assoc]

/-- An encode pass after a completed run: one meta-symbol, and the grow rule (R160, R164). -/
def Channel.collapsed (ch : Channel) : Channel :=
  { ch.emitSyms [metaSym] with xlen := growX ch.xlen, run := 0 }

@[simp] theorem Channel.collapsed_fields (ch : Channel) :
    ch.collapsed.state = ch.state ∧ ch.collapsed.cfg = ch.cfg ∧
      ch.collapsed.xlen = growX ch.xlen ∧ ch.collapsed.run = 0 ∧
      ch.collapsed.symCount = ch.symCount + 1 ∧
      ch.collapsed.outQ = ch.outQ ++ [metaSym].map symWord :=
  ⟨rfl, rfl, rfl, rfl, rfl, rfl⟩

/-- An encode pass after a symbol other than a center: the pending run is broken, and the symbol
emitted (R163, R165). -/
def Channel.broken (ch : Channel) (y : Byte) : Channel :=
  { ch.emitSyms (List.replicate ch.run.toNat 0 ++ [y]) with xlen := relaxedX ch, run := 0 }

@[simp] theorem Channel.broken_fields (ch : Channel) (y : Byte) :
    (ch.broken y).state = ch.state ∧ (ch.broken y).cfg = ch.cfg ∧
      (ch.broken y).xlen = relaxedX ch ∧ (ch.broken y).run = 0 ∧
      (ch.broken y).symCount =
        ch.symCount + BitVec.ofNat 32 (List.replicate ch.run.toNat (0 : Byte) ++ [y]).length ∧
      (ch.broken y).outQ = ch.outQ ++ (List.replicate ch.run.toNat 0 ++ [y]).map symWord :=
  ⟨rfl, rfl, rfl, rfl, rfl, rfl⟩

/-! ### SENC (R164 to R167) -/

section Senc

variable {ch ch' : Channel} {h : Nibble} {s : State}

theorem sencOn_of_accepted (hs : ch.state = .encode) (hh : h.toNat < nlOf ch.cfg) :
    sencOn h ch = symEnc ch h := by
  rw [sencOn, if_neg (not_not.2 hs), if_neg (not_hopOutOfRange hh)]

theorem exec_senc_of_done (hact : s.act = ch) (hs : ch.state = .encode)
    (hh : h.toNat < nlOf ch.cfg) (hv : symEnc ch h = .done ch') :
    exec (.senc h) s = .next (s.setCh s.active ch') := by
  subst hact
  exact onActive_of_done (ne_of_eq_of_ne hs (by decide)) ((sencOn_of_accepted hs hh).trans hv)

theorem exec_senc_of_refuse {why : Refusal} (hs : s.act.state = .encode)
    (hh : h.toNat < nlOf s.act.cfg) (hv : symEnc s.act h = .refuse why) :
    exec (.senc h) s = .refused why :=
  onActive_of_refuse (ne_of_eq_of_ne hs (by decide)) ((sencOn_of_accepted hs hh).trans hv)

/-- R164: a center symbol that does not complete a run is counted. -/
theorem symEnc_pending (hy : rankOf ch.cfg h = 0) (hn : ch.run.toNat + 1 ≠ ch.xlen.toNat) :
    symEnc ch h = .done (ch.afterNulls 1) := by
  simp [symEnc, symEncBeyond, symEncStep, completesRun, hy, hn, Channel.afterNulls]

/-- R164: a center symbol that completes a run. -/
theorem symEnc_collapse (hy : rankOf ch.cfg h = 0) (hn : ch.run.toNat + 1 = ch.xlen.toNat)
    (hx : ch.xlen.toNat + 2 < 2 ^ 32) :
    symEnc ch h = .done ch.collapsed := by
  simp [symEnc, symEncBeyond, symEncStep, completesRun, hy, hn, not_growBeyondSpec hx,
    Channel.emitSym_eq, Channel.collapsed]

/-- R177, I9: a run completed at a threshold that cannot grow. -/
theorem symEnc_beyond (hy : rankOf ch.cfg h = 0) (hn : ch.run.toNat + 1 = ch.xlen.toNat)
    (hx : 2 ^ 32 ≤ ch.xlen.toNat + 2) : symEnc ch h = .refuse .thresholdBeyondSpec := by
  have hgrow : growBeyondSpec ch = true := decide_eq_true hx
  simp [symEnc, symEncBeyond, completesRun, hy, hn, hgrow]

/-- R163, R165: a run of length 0 is broken as well, into no symbols. -/
theorem breakRun_eq (ch : Channel) :
    breakRun ch =
      { ch.emitSyms (List.replicate ch.run.toNat 0) with xlen := relaxedX ch, run := 0 } := by
  rw [breakRun, relaxedX, Channel.emitCenters_eq]
  split
  · next hn =>
    have hnone : List.replicate ch.run.toNat (0 : Byte) = [] := by rw [hn]; rfl
    rw [hnone, Channel.emitSyms_nil, ← hn]
  · rfl

/-- R165: another symbol breaks the pending run and is emitted. -/
theorem symEnc_other (hy : rankOf ch.cfg h ≠ 0) :
    symEnc ch h = .done (ch.broken (rankOf ch.cfg h)) := by
  have hstep : symEncStep ch h = (breakRun ch).emitSyms [rankOf ch.cfg h] := if_neg hy
  have hwithin : symEncBeyond ch h = false := by
    rw [symEncBeyond, decide_eq_false hy, Bool.false_and, Bool.false_and]
  rw [symEnc, hwithin, hstep, breakRun_eq, Channel.broken, ← Channel.emitSyms_append]
  rfl

end Senc

/-- Settles O32: the cases of `symEnc`. -/
theorem sencResult : Obligations.SencResult := by
  intro s h hs hh n x y
  have hrank : rankOf s.act.cfg h = 0 ↔ y = 0 := rankOf_eq_zero_iff _ h
  refine ⟨fun hy hn => ?_, fun hy hn hx => ?_, fun hy hn hx => ?_, fun hy => ?_⟩
  · exact exec_senc_of_done rfl hs hh (symEnc_pending (hrank.2 hy) hn)
  · rw [exec_senc_of_done rfl hs hh (symEnc_collapse (hrank.2 hy) hn hx), Channel.collapsed,
      Channel.emitSyms, List.map_singleton, symWord_metaSym]
    rfl
  · exact exec_senc_of_refuse hs hh (symEnc_beyond (hrank.2 hy) hn hx)
  · intro words
    have hwords : (List.replicate n 0 ++ [rankOf s.act.cfg h]).map symWord = words := by
      rw [List.map_append, List.map_replicate, List.map_singleton, symWord_zero, symWord_rankOf]
    rw [exec_senc_of_done rfl hs hh (symEnc_other (mt hrank.1 hy)), Channel.broken,
      Channel.emitSyms, hwords, relaxedX_eq, List.length_append, List.length_replicate,
      List.length_singleton]
    rfl

/-! ### What SYMDEC does to a channel (R171) -/

/-- Symbols counted, and the hops that they stand for emitted (R171, R173). -/
def Channel.emitHops (ch : Channel) (syms : Nat) (hops : List Nibble) : Channel :=
  { ch.emitAll (hops.map hopWord) with symCount := ch.symCount + BitVec.ofNat 32 syms }

/-- A decode pass after `n` literal center symbols (R171). -/
def Channel.afterCenters (ch : Channel) (n : Nat) : Channel :=
  { ch.emitHops n (List.replicate n (nullHop ch.cfg)) with run := ch.run + BitVec.ofNat 32 n }

@[simp] theorem Channel.afterCenters_fields (ch : Channel) (n : Nat) :
    (ch.afterCenters n).state = ch.state ∧ (ch.afterCenters n).cfg = ch.cfg ∧
      (ch.afterCenters n).xlen = ch.xlen ∧
      (ch.afterCenters n).run = ch.run + BitVec.ofNat 32 n ∧
      (ch.afterCenters n).symCount = ch.symCount + BitVec.ofNat 32 n ∧
      (ch.afterCenters n).outQ = ch.outQ ++ (List.replicate n (nullHop ch.cfg)).map hopWord :=
  ⟨rfl, rfl, rfl, rfl, rfl, rfl⟩

theorem Channel.afterCenters_afterCenters (ch : Channel) (n k : Nat) :
    (ch.afterCenters n).afterCenters k = ch.afterCenters (n + k) := by
  simp only [Channel.afterCenters, Channel.emitHops, Channel.emitAll, BitVec.ofNat_add,
    BitVec.add_assoc, List.replicate_add, List.map_append, List.append_assoc]

/-- A decode pass after a meta-symbol: a run at the threshold in force, and the grow rule (R171,
R178). -/
def Channel.expanded (ch : Channel) : Channel :=
  { ch.emitHops 1 (List.replicate ch.xlen.toNat (nullHop ch.cfg)) with xlen := growX ch.xlen }

@[simp] theorem Channel.expanded_fields (ch : Channel) :
    ch.expanded.state = ch.state ∧ ch.expanded.cfg = ch.cfg ∧
      ch.expanded.xlen = growX ch.xlen ∧ ch.expanded.run = ch.run ∧
      ch.expanded.symCount = ch.symCount + 1 ∧
      ch.expanded.outQ = ch.outQ ++ (List.replicate ch.xlen.toNat (nullHop ch.cfg)).map hopWord :=
  ⟨rfl, rfl, rfl, rfl, rfl, rfl⟩

/-- A decode pass after a symbol other than a center, which stands for `h` and ends the run
(R171). -/
def Channel.afterOther (ch : Channel) (h : Nibble) : Channel :=
  { ch.emitHops 1 [h] with xlen := relaxedX ch, run := 0 }

@[simp] theorem Channel.afterOther_fields (ch : Channel) (h : Nibble) :
    (ch.afterOther h).state = ch.state ∧ (ch.afterOther h).cfg = ch.cfg ∧
      (ch.afterOther h).xlen = relaxedX ch ∧ (ch.afterOther h).run = 0 ∧
      (ch.afterOther h).symCount = ch.symCount + 1 ∧
      (ch.afterOther h).outQ = ch.outQ ++ [h].map hopWord :=
  ⟨rfl, rfl, rfl, rfl, rfl, rfl⟩

/-! ### SDEC (R171 to R173, R176) -/

section Sdec

variable {p : Params} {latch : PassConfig} {ch ch' : Channel} {y : Byte} {s : State}

theorem symDecCheck_of_symbol (hm : y ≠ metaSym) (hy : nlOf ch.cfg ≤ y.toNat) :
    symDecCheck ch y = some .symbol := by
  rw [symDecCheck, if_neg hm, if_pos hy]

theorem symDecCheck_of_meta_in_run (hn : ch.run ≠ 0) : symDecCheck ch metaSym = some .run := by
  rw [symDecCheck, if_pos rfl, if_pos hn]

theorem symDecCheck_zero (hnl : 1 ≤ nlOf ch.cfg) :
    symDecCheck ch 0 = if ch.xlen.toNat ≤ ch.run.toNat + 1 then some .run else none := by
  have hsym : ¬ nlOf ch.cfg ≤ (0 : Byte).toNat := not_le.2 hnl
  rw [symDecCheck, if_neg (by decide), if_neg hsym, if_pos rfl]

theorem verdictOf_symbol_raise {i : Instr} {code : ErrCode} (hi : i = .sdec y ∨ i = .dec y)
    (hs : ch.state = .decode) (hcheck : symDecCheck ch y = some code) :
    verdictOf p latch i ch = .raise code := by
  rcases hi with rfl | rfl
  · rw [verdictOf, sdecOn, if_neg (not_not.2 hs), hcheck]
  · rw [verdictOf, decOn, if_neg (not_not.2 hs), hcheck]

theorem sdecOn_of_accepted (hs : ch.state = .decode) (hcheck : symDecCheck ch y = none)
    (hx : y = metaSym → ch.xlen.toNat + 2 < 2 ^ 32) :
    sdecOn y ch = .done ((symDecStep ch y).emitAll ((symHops ch y).map hopWord)) := by
  have hgrow : ¬ (y = metaSym ∧ growBeyondSpec ch = true) := fun ⟨hm, hg⟩ =>
    not_growBeyondSpec (hx hm) hg
  simp only [sdecOn, hs, hcheck, if_neg hgrow, ne_eq, not_true_eq_false, if_false]

theorem sdecOn_meta (hs : ch.state = .decode) (hn : ch.run = 0)
    (hx : ch.xlen.toNat + 2 < 2 ^ 32) :
    sdecOn metaSym ch = .done ch.expanded := by
  have hcheck : symDecCheck ch metaSym = none := by simp [symDecCheck, hn]
  rw [sdecOn_of_accepted hs hcheck fun _ => hx]
  rfl

/-- R177, I9: a meta-symbol at a threshold that cannot grow. -/
theorem sdecOn_beyond (hs : ch.state = .decode) (hn : ch.run = 0)
    (hx : 2 ^ 32 ≤ ch.xlen.toNat + 2) : sdecOn metaSym ch = .refuse .thresholdBeyondSpec := by
  have hgrow : growBeyondSpec ch = true := decide_eq_true hx
  simp [sdecOn, symDecCheck, hs, hn, hgrow]

theorem sdecOn_center (hs : ch.state = .decode) (hnl : 1 ≤ nlOf ch.cfg)
    (hn : ch.run.toNat + 1 < ch.xlen.toNat) :
    sdecOn 0 ch = .done (ch.afterCenters 1) := by
  have hcheck : symDecCheck ch 0 = none := by
    rw [symDecCheck_zero hnl, if_neg (not_le.2 hn)]
  rw [sdecOn_of_accepted hs hcheck fun hm => absurd hm (by decide)]
  rfl

theorem ne_metaSym_of_lt {c : PassConfig} (hy : y.toNat < nlOf c) : y ≠ metaSym := by
  rintro rfl
  have hnl : nlOf c < 16 := c.numLevels.isLt
  exact absurd (hy.trans hnl) (by decide)

theorem sdecOn_other (hs : ch.state = .decode) (hy0 : y ≠ 0) (hy : y.toNat < nlOf ch.cfg) :
    sdecOn y ch = .done (ch.afterOther (hopOf ch.cfg y)) := by
  have hm := ne_metaSym_of_lt hy
  have hcheck : symDecCheck ch y = none := by
    rw [symDecCheck, if_neg hm, if_neg (not_le.2 hy), if_neg hy0]
  have hstep : symDecStep ch y =
      { ch with symCount := ch.symCount + 1, xlen := relaxedX ch, run := 0 } := by
    rw [symDecStep, if_neg hm, if_neg hy0, relaxedX]
    split
    · next hn => rw [← hn]
    · rfl
  rw [sdecOn_of_accepted hs hcheck fun h => absurd h hm, hstep, symHops, if_neg hm, if_neg hy0]
  rfl

theorem exec_sdec_of_done (hact : s.act = ch) (hs : ch.state = .decode)
    (hv : sdecOn y ch = .done ch') : exec (.sdec y) s = .next (s.setCh s.active ch') := by
  subst hact
  exact onActive_of_done (ne_of_eq_of_ne hs (by decide)) hv

end Sdec

/-- Settles O34: the check of the symbol that fails gives the code. -/
theorem symbolCommandFaults : Obligations.SymbolCommandFaults := by
  intro s y i hi faults
  have hpass : passOf i = some .decode := by rcases hi with rfl | rfl <;> rfl
  have hcheck : ∀ code, s.act.state = .decode → symDecCheck s.act y = some code → faults code :=
    fun code hs hc => exec_data_of_raise hpass (ne_of_eq_of_ne hs (by decide))
      (verdictOf_symbol_raise hi hs hc)
  refine ⟨fun hs => ?_, fun hs hm hy => ?_, fun hs hm hn => ?_, fun hs hy hnl hn => ?_⟩
  · have hne : s.act.state ≠ .fault ∧ s.act.state ≠ .decode := by
      rcases hs with hs | hs <;> rw [hs] <;> decide
    exact exec_data_outside_pass hpass hne.1 hne.2
  · exact hcheck _ hs (symDecCheck_of_symbol hm hy)
  · exact hcheck _ hs (hm ▸ symDecCheck_of_meta_in_run (mt (run_eq_zero_iff _).1 hn))
  · exact hcheck _ hs (hy ▸ (symDecCheck_zero hnl).trans (if_pos hn))

theorem hopWord_eq (h : Nibble) : hopWord h = 0xC0000000#32 ||| h.setWidth 32 <<< 16 := by
  obtain ⟨-, -, -, hhop⟩ := outputWords
  exact hhop h

theorem hopWord_nullHop (c : PassConfig) :
    hopWord (nullHop c) = 0xC0000000#32 ||| BitVec.ofNat 32 ((nlOf c - 1) / 2) <<< 16 := by
  have hnull : (nullHop c).setWidth 32 = BitVec.ofNat 32 (kOf c) := by
    rw [← toNat_nullHop, BitVec.ofNat_toNat]
  rw [hopWord_eq, hnull, kOf]

/-- Settles O33: the cases of `sdecOn`. -/
theorem sdecResult : Obligations.SdecResult := by
  intro s y hs n x k center
  have hcenter : hopWord (nullHop s.act.cfg) = center := hopWord_nullHop _
  refine ⟨?_, ?_, ?_, fun hy0 hy h hh hrank hc => ?_⟩
  · rintro rfl hn hx
    refine (exec_sdec_of_done rfl hs (sdecOn_meta hs ((run_eq_zero_iff _).2 hn) hx)).trans ?_
    rw [Channel.expanded, Channel.emitHops, List.map_replicate, hcenter]
    rfl
  · rintro rfl hn hx
    exact onActive_of_refuse (ne_of_eq_of_ne hs (by decide))
      (sdecOn_beyond hs ((run_eq_zero_iff _).2 hn) hx)
  · rintro rfl hnl hn
    rw [exec_sdec_of_done rfl hs (sdecOn_center hs hnl hn), Channel.afterCenters, Channel.emitHops,
      List.replicate_one, List.map_singleton, hcenter]
    rfl
  · intro word
    rw [exec_sdec_of_done rfl hs (sdecOn_other hs hy0 hy), hopOf_eq hc hh hrank, Channel.afterOther,
      Channel.emitHops, List.map_singleton, hopWord_eq, relaxedX_eq]
    rfl

/-! ### Commands one after the other (R70) -/

section RunCommands

variable {is js : List Instr} {s m t : State}

theorem runCommands_append_of_next (h : runCommands is s = .next m) :
    runCommands (is ++ js) s = runCommands js m := by
  induction is generalizing s with
  | nil => cases h; rfl
  | cons i is ih =>
    obtain ⟨s', hi, hrest⟩ := runCommands_cons_next h
    exact (runCommands_cons_of_next hi).trans (ih hrest)

theorem runCommands_append_next (h : runCommands (is ++ js) s = .next t) :
    ∃ m, runCommands is s = .next m ∧ runCommands js m = .next t := by
  induction is generalizing s with
  | nil => exact ⟨s, rfl, h⟩
  | cons i is ih =>
    obtain ⟨s', hi, hrest⟩ := runCommands_cons_next h
    obtain ⟨m, his, hjs⟩ := ih hrest
    exact ⟨m, (runCommands_cons_of_next hi).trans his, hjs⟩

end RunCommands

/-- `n` times the same command, each time done, on channels that are known beforehand. -/
theorem runCommands_replicate {i : Instr} {f : Channel → Verdict}
    (hi : ∀ t, exec i t = onActive t f) {s : State} (chs : Nat → Channel) (h0 : chs 0 = s.act)
    (n : Nat) (hstep : ∀ k < n, (chs k).state ≠ .fault ∧ f (chs k) = .done (chs (k + 1))) :
    runCommands (List.replicate n i) s = .next (s.setCh s.active (chs n)) := by
  induction n with
  | zero =>
    rw [h0]
    exact congrArg _ (s.setCh_self s.active).symm
  | succ n ih =>
    obtain ⟨hf, hv⟩ := hstep n n.lt_succ_self
    rw [List.replicate_succ', runCommands_append_of_next (ih fun k hk => hstep k (by omega))]
    have hact := s.act_setCh_active (chs n)
    rw [← hact] at hf hv
    have hexec := (hi _).trans (onActive_of_done hf hv)
    rw [State.setCh_active, State.setCh_setCh] at hexec
    exact runCommands_cons_of_next hexec

theorem toNat_run_add {ch : Channel} {n : Nat} (h : ch.run.toNat + n < ch.xlen.toNat) :
    (ch.run + BitVec.ofNat 32 n).toNat = ch.run.toNat + n := by
  have := ch.xlen.isLt
  rw [BitVec.toNat_add, BitVec.toNat_ofNat]
  omega

/-! ### Null hops in a row (R164, R171) -/

theorem runCommands_senc_nulls {s : State} {ch : Channel} (hact : s.act = ch)
    (hs : ch.state = .encode) (hc : cfgValid ch.cfg = true) (n : Nat)
    (hn : ch.run.toNat + n < ch.xlen.toNat) :
    runCommands (List.replicate n (.senc (nullHop ch.cfg))) s =
      .next (s.setCh s.active (ch.afterNulls n)) := by
  have hnull := nullHop_lt (cfgValid_one_le_nlOf hc)
  refine runCommands_replicate (f := sencOn (nullHop ch.cfg)) (fun _ => rfl) ch.afterNulls
    (by simp [hact, Channel.afterNulls]) n fun k hk => ⟨ne_of_eq_of_ne hs (by decide), ?_⟩
  have hrun : (ch.afterNulls k).run.toNat = ch.run.toNat + k := toNat_run_add (by omega)
  have hpending : (ch.afterNulls k).run.toNat + 1 ≠ ch.xlen.toNat := by omega
  refine (sencOn_of_accepted (ch := ch.afterNulls k) hs hnull).trans
    ((symEnc_pending (ch := ch.afterNulls k) (rankOf_nullHop hc) hpending).trans ?_)
  rw [Channel.afterNulls_afterNulls]

theorem runCommands_sdec_centers {s : State} {ch : Channel} (hact : s.act = ch)
    (hs : ch.state = .decode) (hnl : 1 ≤ nlOf ch.cfg) (n : Nat)
    (hn : ch.run.toNat + n < ch.xlen.toNat) :
    runCommands (List.replicate n (.sdec 0)) s =
      .next (s.setCh s.active (ch.afterCenters n)) := by
  refine runCommands_replicate (f := sdecOn 0) (fun _ => rfl) ch.afterCenters
    (by simp [hact, Channel.afterCenters, Channel.emitHops, Channel.emitAll]) n
    fun k hk => ⟨ne_of_eq_of_ne hs (by decide), ?_⟩
  have hrun : (ch.afterCenters k).run.toNat = ch.run.toNat + k := toNat_run_add (by omega)
  have hopen : (ch.afterCenters k).run.toNat + 1 < ch.xlen.toNat := by omega
  refine (sdecOn_center (ch := ch.afterCenters k) hs hnl hopen).trans ?_
  rw [Channel.afterCenters_afterCenters]

/-! ### The threshold schedule (R175) -/

/-- Settles O35: seven nulls are pending at the threshold 8, and the eighth completes the run. -/
theorem thresholdSchedule : Obligations.ThresholdSchedule := by
  intro s h hs hc hx hn hh hk
  generalize hact : s.act = ch at hs hc hx hn hh hk ⊢
  intro other nulls
  have hrank : rankOf ch.cfg h ≠ 0 := fun hr =>
    hk (by rw [eq_nullHop_of_rankOf hc hh hr, toNat_nullHop])
  have hnull := nullHop_lt (cfgValid_one_le_nlOf hc)
  obtain ⟨m, hseven, hm⟩ : ∃ m, runCommands (nulls 7) s = .next m ∧ m.act = ch.afterNulls 7 :=
    ⟨_, runCommands_senc_nulls hact hs hc 7 (by rw [hn, hx]; decide), s.act_setCh_active _⟩
  refine ⟨?_, ?_⟩
  · have heighth : exec (.senc (nullHop ch.cfg)) m =
        .next (m.setCh m.active (ch.afterNulls 7).collapsed) :=
      exec_senc_of_done hm (by simpa using hs) (by simpa using hnull)
        (symEnc_collapse (by simpa using rankOf_nullHop hc) (by simp [hn, hx]) (by simp [hx]))
    have hlast := exec_senc_of_done (m.act_setCh_active (ch.afterNulls 7).collapsed)
      (by simpa using hs) (by simpa using hh) (symEnc_other (h := h) (by simpa using hrank))
    have hnulls : nulls 8 = nulls 7 ++ [.senc (nullHop ch.cfg)] := List.replicate_succ'
    rw [hnulls, List.append_assoc, runCommands_append_of_next hseven]
    refine ⟨_, (runCommands_cons_of_next heighth).trans (runCommands_cons_of_next hlast), ?_⟩
    rw [State.act_setCh_active]
    simp [relaxedX, hx, growX, symWord_metaSym, other]
  · have hlast := exec_senc_of_done hm (by simpa using hs) (by simpa using hh)
      (symEnc_other (h := h) (by simpa using hrank))
    refine ⟨_, (runCommands_append_of_next hseven).trans (runCommands_cons_of_next hlast), ?_⟩
    have hzero : symWord 0#8 = 0xA0000000#32 := symWord_zero
    rw [State.act_setCh_active]
    simp [relaxedX, relaxX, hn, hx, hzero, other]

/-! ### The symbol round trip (R174) -/

/-- An encode pass `a` and a decode pass `b` that has decoded what `a` has emitted. The run that is
pending in `a` has not been emitted, and so `b` is in none. -/
structure Tracks (a b : Channel) : Prop where
  encode : a.state = .encode
  decode : b.state = .decode
  cfg : b.cfg = a.cfg
  valid : cfgValid a.cfg = true
  xlen : b.xlen = a.xlen
  closed : b.run = 0
  pending : a.run.toNat < a.xlen.toNat
  count : b.symCount = a.symCount

/-- The null hops that an encode pass has counted and not emitted. -/
def pendingHops (ch : Channel) : List Nibble := List.replicate ch.run.toNat (nullHop ch.cfg)

/-- The symbols emitted between `a` and `a'` bring a decode pass from `b` to `b'`, and what they
decode to, with the null hops still pending, is what was pending before and then `hops`. -/
def Decodes (a a' b b' : Channel) (hops : List Nibble) : Prop :=
  ∃ (ys : List Byte) (out : List Nibble),
    a'.outQ = a.outQ ++ ys.map symWord ∧
    (∀ d : State, d.act = b → ∃ u, runCommands (ys.map .sdec) d = .next u ∧ u.act = b') ∧
    b'.outQ = b.outQ ++ out.map hopWord ∧
    out ++ pendingHops a' = pendingHops a ++ hops

section RoundTrip

variable {a a' a'' b b' b'' : Channel} {hop : Nibble}

theorem Decodes.refl (a b : Channel) : Decodes a a b b [] :=
  ⟨[], [], by simp, fun d hd => ⟨d, rfl, hd⟩, by simp, by simp⟩

theorem Decodes.trans {hops hops' : List Nibble} (h : Decodes a a' b b' hops)
    (h' : Decodes a' a'' b' b'' hops') : Decodes a a'' b b'' (hops ++ hops') := by
  obtain ⟨ys, out, ha, hrun, hb, hout⟩ := h
  obtain ⟨ys', out', ha', hrun', hb', hout'⟩ := h'
  refine ⟨ys ++ ys', out ++ out', by simp [ha', ha], fun d hd => ?_, by simp [hb', hb], ?_⟩
  · obtain ⟨u, hu, hact⟩ := hrun d hd
    obtain ⟨u', hu', hact'⟩ := hrun' u hact
    exact ⟨u', by rw [List.map_append, runCommands_append_of_next hu, hu'], hact'⟩
  · rw [List.append_assoc, hout', ← List.append_assoc, hout, List.append_assoc]

/-- The literal center symbols of a pending run, decoded. -/
theorem Tracks.runCommands_pending (h : Tracks a b) {d : State} (hd : d.act = b) :
    runCommands ((List.replicate a.run.toNat (0 : Byte)).map .sdec) d =
      .next (d.setCh d.active (b.afterCenters a.run.toNat)) := by
  rw [List.map_replicate]
  refine runCommands_sdec_centers hd h.decode ?_ _ ?_
  · rw [h.cfg]
    exact cfgValid_one_le_nlOf h.valid
  · simpa [h.closed, h.xlen] using h.pending

theorem Tracks.outQ_afterCenters (h : Tracks a b) :
    (b.afterCenters a.run.toNat).outQ = b.outQ ++ (pendingHops a).map hopWord := by
  simp [pendingHops, h.cfg]

/-- A null hop that does not complete a run emits nothing. -/
theorem Tracks.afterNulls (h : Tracks a b) (hn : a.run.toNat + 1 ≠ a.xlen.toNat) :
    Tracks (a.afterNulls 1) b ∧ Decodes a (a.afterNulls 1) b b [nullHop a.cfg] := by
  have hlt : a.run.toNat + 1 < a.xlen.toNat := by have := h.pending; omega
  have hrun : (a.afterNulls 1).run.toNat = a.run.toNat + 1 := toNat_run_add hlt
  have hpending : pendingHops (a.afterNulls 1) = pendingHops a ++ [nullHop a.cfg] := by
    rw [pendingHops, hrun, List.replicate_succ']
    rfl
  refine ⟨{ h with pending := hrun.trans_lt hlt }, [], [], ?_, ?_, ?_, hpending⟩
  · simp
  · exact fun d hd => ⟨d, rfl, hd⟩
  · simp

/-- The meta-symbol of a completed run decodes to the pending nulls and the one that completed
it. -/
theorem Tracks.collapsed (h : Tracks a b) (hn : a.run.toNat + 1 = a.xlen.toNat)
    (hx : a.xlen.toNat + 2 < 2 ^ 32) :
    Tracks a.collapsed b.expanded ∧ Decodes a a.collapsed b b.expanded [nullHop a.cfg] := by
  have hmeta := sdecOn_meta h.decode h.closed (by rwa [h.xlen])
  have hgrow : (growX a.xlen).toNat = a.xlen.toNat + 2 :=
    toNat_growX (not_growBeyondSpec hx)
  refine ⟨?_, [metaSym], List.replicate b.xlen.toNat (nullHop b.cfg), ?_, fun d hd => ?_, ?_, ?_⟩
  · exact {
      encode := by simpa using h.encode
      decode := by simpa using h.decode
      cfg := by simpa using h.cfg
      valid := by simpa using h.valid
      xlen := by simp [h.xlen]
      closed := by simpa using h.closed
      pending := by simp [hgrow]
      count := by simp [h.count] }
  · simp
  · exact ⟨_, runCommands_cons_of_next (exec_sdec_of_done hd h.decode hmeta),
      d.act_setCh_active _⟩
  · simp
  · simp [pendingHops, h.xlen, h.cfg, ← hn, List.replicate_succ']

/-- The pending run and the symbol that breaks it. -/
theorem Tracks.broken (h : Tracks a b) (hh : hop.toNat < nlOf a.cfg) (hy : rankOf a.cfg hop ≠ 0) :
    Tracks (a.broken (rankOf a.cfg hop)) ((b.afterCenters a.run.toNat).afterOther hop) ∧
      Decodes a (a.broken (rankOf a.cfg hop)) b ((b.afterCenters a.run.toNat).afterOther hop)
        [hop] := by
  have hother : sdecOn (rankOf a.cfg hop) (b.afterCenters a.run.toNat) =
      .done ((b.afterCenters a.run.toNat).afterOther hop) := by
    rw [sdecOn_other (by simpa using h.decode) hy (by simpa [h.cfg] using rankOf_lt h.valid hh)]
    simp [h.cfg, hopOf_eq h.valid hh (toNat_rankOf _ _).symm]
  have hrelax : relaxedX (b.afterCenters a.run.toNat) = relaxedX a := by
    simp [relaxedX, h.closed, h.xlen]
  refine ⟨?_, List.replicate a.run.toNat 0 ++ [rankOf a.cfg hop], pendingHops a ++ [hop], ?_,
    fun d hd => ?_, ?_, ?_⟩
  · exact {
      encode := by simpa using h.encode
      decode := by simpa using h.decode
      cfg := by simpa using h.cfg
      valid := by simpa using h.valid
      xlen := by simp [hrelax]
      closed := by simp
      pending := by simpa using toNat_relaxedX_pos h.pending
      count := by simp [h.count, BitVec.ofNat_add, BitVec.add_assoc] }
  · simp
  · rw [List.map_append, runCommands_append_of_next (h.runCommands_pending hd)]
    exact ⟨_, runCommands_cons_of_next
      (exec_sdec_of_done (d.act_setCh_active _) (by simpa using h.decode) hother),
      State.act_setCh_active _ _⟩
  · simp [pendingHops, h.cfg]
  · simp [pendingHops]

/-- One hop of an encode pass, its symbols then decoded. -/
theorem Tracks.symEnc (h : Tracks a b) (hh : hop.toNat < nlOf a.cfg)
    (hv : symEnc a hop = .done a') : ∃ b', Tracks a' b' ∧ Decodes a a' b b' [hop] := by
  by_cases hy : rankOf a.cfg hop = 0
  · obtain rfl := eq_nullHop_of_rankOf h.valid hh hy
    by_cases hn : a.run.toNat + 1 = a.xlen.toNat
    · by_cases hx : a.xlen.toNat + 2 < 2 ^ 32
      · cases (symEnc_collapse hy hn hx).symm.trans hv
        exact ⟨_, h.collapsed hn hx⟩
      · cases (symEnc_beyond hy hn (not_lt.1 hx)).symm.trans hv
    · cases (symEnc_pending hy hn).symm.trans hv
      exact ⟨_, h.afterNulls hn⟩
  · cases (symEnc_other hy).symm.trans hv
    exact ⟨_, h.broken hh hy⟩

end RoundTrip

theorem symEnc_cfg {ch ch' : Channel} {hop : Nibble} (h : symEnc ch hop = .done ch') :
    ch'.cfg = ch.cfg := by
  rw [symEnc_done h, symEncStep]
  extract_lets y
  split_ifs
  · rfl
  · rfl
  · rw [breakRun_eq]
    rfl

theorem symEnc_ne_raise (ch : Channel) (hop : Nibble) (code : ErrCode) :
    symEnc ch hop ≠ .raise code := by
  unfold symEnc
  split_ifs <;> simp

theorem symEnc_of_exec_senc {s t : State} {hop : Nibble} (hs : s.act.state = .encode)
    (hh : hop.toNat < nlOf s.act.cfg) (hexec : exec (.senc hop) s = .next t) :
    symEnc s.act hop = .done t.act := by
  rw [← sencOn_of_accepted hs hh]
  refine (exec_next_act hexec (ne_of_eq_of_ne hs (by decide))).resolve_right ?_
  rintro ⟨code, hraise, -⟩
  exact symEnc_ne_raise _ _ code ((sencOn_of_accepted hs hh).symm.trans hraise)

/-- The hops of an encode pass without its END, by induction on the hops. -/
theorem Tracks.runCommands_senc {hops : List Nibble} {s t : State} {b : Channel}
    (h : Tracks s.act b) (hh : ∀ hop ∈ hops, hop.toNat < nlOf s.act.cfg)
    (hrun : runCommands (hops.map .senc) s = .next t) :
    ∃ b', Tracks t.act b' ∧ Decodes s.act t.act b b' hops := by
  induction hops generalizing s b with
  | nil =>
    cases hrun
    exact ⟨b, h, .refl _ _⟩
  | cons hop hops ih =>
    obtain ⟨m, hexec, hrest⟩ := runCommands_cons_next hrun
    have hhop := hh hop List.mem_cons_self
    have hsym := symEnc_of_exec_senc h.encode hhop hexec
    obtain ⟨b', htrack, hdec⟩ := h.symEnc hhop hsym
    have hcfg : m.act.cfg = s.act.cfg := symEnc_cfg hsym
    obtain ⟨b'', htrack', hdec'⟩ :=
      ih htrack (fun hop' hmem => by rw [hcfg]; exact hh hop' (List.mem_cons_of_mem _ hmem)) hrest
    exact ⟨b'', htrack', hdec.trans hdec'⟩

/-- END emits the pending run, and the decode pass reads it (R168). -/
theorem Tracks.end_ {s t : State} {b : Channel} (h : Tracks s.act b)
    (hexec : exec .end_ s = .next t) :
    ∃ b', Decodes s.act t.act b b' [] ∧ t.act.run = 0 ∧ b'.state = .decode ∧
      b'.symCount = t.act.symCount := by
  rw [endEncodeFlushes s h.encode] at hexec
  cases hexec
  rw [State.act_setCh_active]
  refine ⟨b.afterCenters s.act.run.toNat,
    ⟨List.replicate s.act.run.toNat 0, pendingHops s.act, ?_, fun d hd => ?_, ?_, ?_⟩, rfl, ?_, ?_⟩
  · rw [List.map_replicate, symWord_zero]
  · exact ⟨_, h.runCommands_pending hd, d.act_setCh_active _⟩
  · exact h.outQ_afterCenters
  · exact rfl
  · simpa using h.decode
  · simp [h.count]

/-- Settles O36: the decode pass follows the encode pass hop by hop, and END empties what is
pending. -/
theorem symbolRoundTrip : Obligations.SymbolRoundTrip := by
  intro hs s t d henc hdec hcfg hvalid hhs hx hn hout hcount hx' hn' hout' hcount' hrun
  have h : Tracks s.act d.act := {
    encode := henc
    decode := hdec
    cfg := hcfg
    valid := hvalid
    xlen := hx'.trans hx.symm
    closed := hn'
    pending := by rw [hn, hx]; decide
    count := hcount'.trans hcount.symm }
  obtain ⟨m, hhops, hend⟩ := runCommands_append_next hrun
  obtain ⟨t', hexec, hnil⟩ := runCommands_cons_next hend
  cases hnil
  obtain ⟨b, htrack, hdecodes⟩ := h.runCommands_senc hhs hhops
  obtain ⟨b', hdecodes', hrun', hstate, hsyms⟩ := htrack.end_ hexec
  obtain ⟨ys, out, hys, hread, hb', hsplit⟩ := hdecodes.trans hdecodes'
  obtain ⟨u, hu, rfl⟩ := hread d rfl
  have hstart : pendingHops s.act = [] := by rw [pendingHops, hn]; rfl
  have hfinish : pendingHops t.act = [] := by rw [pendingHops, hrun']; rfl
  have hhops : out = hs := by simpa [hstart, hfinish] using hsplit
  rw [hys, hout, List.nil_append, symBytes_map_symWord]
  exact ⟨u, hu, hstate, by rw [hb', hout', hhops, List.nil_append], hsyms⟩

end Sys2Proof.Machine

/-! SUPPORT. The combined commands (44_pipeline.md R180 to R189; O38 to O42). ENC as QENC's step with
SYMENC of its hop; then the checks of DEC, the hops that a symbol stands for, and the reconstructor
steps of a list of hops, whose effect does not depend on what the channel has emitted. -/

namespace Sys2Proof.Machine

/-! ### ENC (R180, R181, R185) -/

section Enc

variable {p : Params} {ch ch' : Channel} {o : Half} {s : State}

/-- ENC makes QENC's checks, and goes on from the channel that QENC leaves (R181). -/
theorem encOn_of_qencOn_done (h : qencOn p o ch = .done ch') :
    encOn p o ch = symEnc ch' (quantOut p ch o).1 := by
  unfold qencOn at h
  split_ifs at h with hs ho hcount
  cases h
  rw [encOn, if_neg hs, if_neg ho, if_neg hcount]

theorem exec_enc_of_accepted (hs : s.act.state = .encode) (ho : inBounds s.act.cfg o = true)
    (hcount : s.act.idx.toNat + 1 ≤ s.act.cfg.sampleCount.toNat)
    (hv : symEnc (quantEmit s.params s.act o) (quantOut s.params s.act o).1 = .done ch') :
    exec (.enc o) s = .next (s.setCh s.active ch') :=
  onActive_of_done (ne_of_eq_of_ne hs (by decide))
    ((encOn_of_qencOn_done (qencOn_of_accepted hs ho hcount)).trans hv)

/-- A command whose verdict is that of another one on a channel `ch`, and is no fault, ends as the
other one does once the executing channel is `ch`. -/
theorem onActive_setCh_of_eq {f g : Channel → Verdict} (hs : s.act.state ≠ .fault)
    (hch : ch.state ≠ .fault) (hfg : f s.act = g ch) (hraise : ∀ code, g ch ≠ .raise code) :
    onActive s f = onActive (s.setCh s.active ch) g := by
  have hact := s.act_setCh_active ch
  have hrun : (s.setCh s.active ch).act.state ≠ .fault := by rwa [hact]
  have hg := congrArg g hact
  cases hv : g ch with
  | done ch' =>
    rw [onActive_of_done hs (hfg.trans hv), onActive_of_done hrun (hg.trans hv),
      State.setCh_active, State.setCh_setCh]
  | raise code => exact absurd hv (hraise code)
  | refuse why => rw [onActive_of_refuse hs (hfg.trans hv), onActive_of_refuse hrun (hg.trans hv)]

/-- The quantizer's step with its QREC word, and then the symbols of the hop (R181). -/
theorem quantEmit_emitSyms (p : Params) (ch : Channel) (o : Half) (ys : List Byte) :
    (quantEmit p ch o).emitSyms ys =
      { quantStep p ch o with
        outQ := ch.outQ ++ qrecWord (quantOut p ch o).1 (quantOut p ch o).2 :: ys.map symWord
        emitted := ch.emitted ++ qrecWord (quantOut p ch o).1 (quantOut p ch o).2 :: ys.map symWord
        symCount := ch.symCount + BitVec.ofNat 32 (ys.map symWord).length } := by
  rw [List.append_cons ch.outQ, List.append_cons ch.emitted, List.length_map]
  rfl

end Enc

/-- Settles O38: the hop is in range in a valid pass, so SENC goes straight on to SYMENC, which
raises no fault. -/
theorem encIsQencThenSenc : Obligations.EncIsQencThenSenc := by
  intro s t o hs hvalid hqenc ht
  obtain ⟨hf, -⟩ | ⟨hf, ⟨ch, hdone, rfl⟩ | ⟨code, -, rfl⟩⟩ := onActive_next hqenc
  · cases hs.symm.trans hf
  · obtain ⟨-, rfl⟩ := qencOn_done hdone
    obtain ⟨hhop, -⟩ := quantizerHopInRange s.params s.act o (cfgValid_one_le_nlOf hvalid)
    have hsenc : sencOn (quantOut s.params s.act o).1 (quantEmit s.params s.act o) =
        symEnc (quantEmit s.params s.act o) (quantOut s.params s.act o).1 :=
      sencOn_of_accepted hs hhop
    refine ⟨(quantOut s.params s.act o).1, (quantOut s.params s.act o).2, ?_, ?_⟩
    · rw [State.act_setCh_active]
      rfl
    · exact onActive_setCh_of_eq hf (ne_of_eq_of_ne hs (by decide))
        ((encOn_of_qencOn_done hdone).trans hsenc.symm)
        fun code hraise => symEnc_ne_raise _ _ code (hsenc.symm.trans hraise)
  · rw [State.act_setCh_active] at ht
    cases ht

/-- Settles O39: the cases of SYMENC, after the quantizer's step. -/
theorem encResult : Obligations.EncResult := by
  intro s o hs ho hcount hx h recon n x y symbols
  have hrank : rankOf s.act.cfg h = 0 ↔ y = 0 := rankOf_eq_zero_iff _ h
  by_cases hy : y = 0
  · by_cases hn : n + 1 = x
    · have hsymbols : symbols = [metaSym].map symWord := by
        simp only [symbols, if_pos hy, if_pos hn, List.map_singleton, symWord_metaSym]
      rw [exec_enc_of_accepted hs ho hcount (symEnc_collapse (hrank.2 hy) hn hx),
        Channel.collapsed, quantEmit_emitSyms, hsymbols]
      simp only [if_pos hy, if_pos hn]
      rfl
    · have hsymbols : symbols = [].map symWord := by
        simp only [symbols, if_pos hy, if_neg hn, List.map_nil]
      rw [exec_enc_of_accepted hs ho hcount (symEnc_pending (hrank.2 hy) hn),
        ← (quantEmit s.params s.act o).emitSyms_nil, quantEmit_emitSyms, hsymbols]
      simp only [if_pos hy, if_neg hn]
      rfl
  · have hsymbols : symbols = (List.replicate n 0 ++ [rankOf s.act.cfg h]).map symWord := by
      simp only [symbols, if_neg hy, List.map_append, List.map_replicate, List.map_singleton,
        symWord_zero, symWord_rankOf]
      rfl
    rw [exec_enc_of_accepted hs ho hcount (symEnc_other (mt hrank.1 hy)), Channel.broken,
      quantEmit_emitSyms, relaxedX_eq, hsymbols]
    simp only [if_neg hy]
    rfl

/-! ### The checks of a symbol (R172, R176, R183) -/

section DecChecks

variable {p : Params} {ch ch' : Channel} {y : Byte} {s : State}

/-- The symbols that pass SYMBOL and RUN. -/
theorem symDecCheck_eq_none_iff :
    symDecCheck ch y = none ↔
      (y = metaSym ∧ ch.run.toNat = 0) ∨
      (y ≠ metaSym ∧ y.toNat < nlOf ch.cfg ∧ (y = 0 → ch.run.toNat + 1 < ch.xlen.toNat)) := by
  by_cases hm : y = metaSym
  · simp [symDecCheck, hm, ← run_eq_zero_iff]
  · by_cases hy : nlOf ch.cfg ≤ y.toNat
    · simp [symDecCheck, hm, hy]
    · simp [symDecCheck, hm, hy, not_le.1 hy]

theorem decOn_of_checked (hs : ch.state = .decode) (hcheck : symDecCheck ch y = none) :
    decOn p y ch =
      if overCount ch (symHopCount ch y) then .raise .count
      else .done (reconAll p (symDecStep ch y) (symHops ch y)) := by
  rw [decOn, if_neg (not_not.2 hs), hcheck]

theorem exec_dec_of_accepted (hs : s.act.state = .decode) (hcheck : symDecCheck s.act y = none)
    (hcount : s.act.idx.toNat + symHopCount s.act y ≤ s.act.cfg.sampleCount.toNat) :
    exec (.dec y) s =
      .next (s.setCh s.active
        (reconAll s.params (symDecStep s.act y) (symHops s.act y))) := by
  have hover : ¬ overCount s.act (symHopCount s.act y) = true := by
    rwa [overCount, decide_eq_true_eq, not_lt]
  exact onActive_of_done (ne_of_eq_of_ne hs (by decide))
    ((decOn_of_checked hs hcheck).trans (if_neg hover))

theorem exec_dec_of_overrun (hs : s.act.state = .decode) (hcheck : symDecCheck s.act y = none)
    (hcount : s.act.cfg.sampleCount.toNat < s.act.idx.toNat + symHopCount s.act y) :
    exec (.dec y) s = .next (s.setCh s.active (s.act.enterFault .count)) :=
  onActive_act_of_raise (ne_of_eq_of_ne hs (by decide))
    ((decOn_of_checked hs hcheck).trans (if_pos (decide_eq_true hcount)))

theorem decOn_done_accepted (h : decOn p y ch = .done ch') :
    symDecCheck ch y = none ∧ ch.idx.toNat + symHopCount ch y ≤ ch.cfg.sampleCount.toNat := by
  obtain ⟨hs, -⟩ := decOn_done h
  cases hcheck : symDecCheck ch y with
  | none =>
    rw [decOn_of_checked hs hcheck] at h
    split_ifs at h with hover
    exact ⟨rfl, overCount_eq_false hover⟩
  | some code =>
    rw [decOn, if_neg (not_not.2 hs), hcheck] at h
    cases h

theorem symHopCount_metaSym (ch : Channel) : symHopCount ch metaSym = ch.xlen.toNat := if_pos rfl

theorem symHopCount_of_ne (hm : y ≠ metaSym) : symHopCount ch y = 1 := if_neg hm

/-- The sample limit has 31 bits, so a meta-symbol within it does not bring the threshold to `2^32`
(R109, R177). -/
theorem xlen_within_of_meta
    (hcount : ch.idx.toNat + symHopCount ch y ≤ ch.cfg.sampleCount.toNat) (hm : y = metaSym) :
    ch.xlen.toNat + 2 < 2 ^ 32 := by
  have := ch.cfg.sampleCount.isLt
  rw [hm, symHopCount_metaSym] at hcount
  omega

end DecChecks

/-- Settles O41: the count is checked after SYMBOL and RUN have passed, for all hops at once. -/
theorem decCountBeforeAnyWrite : Obligations.DecCountBeforeAnyWrite := by
  intro s y hs faults
  refine ⟨?_, fun hm hy hn hcount => ?_⟩
  · rintro rfl hn hcount
    exact exec_dec_of_overrun hs (symDecCheck_eq_none_iff.2 (.inl ⟨rfl, hn⟩)) hcount
  · exact exec_dec_of_overrun hs (symDecCheck_eq_none_iff.2 (.inr ⟨hm, hy, hn⟩))
      (by rwa [symHopCount_of_ne hm])

/-! ### The hops of a symbol (R157, R171) -/

section SymHops

variable {ch : Channel} {h : Nibble} {y : Byte}

theorem eq_rankOf_of_prioOf {c : PassConfig} (hy : (prioOf c h.toNat).toNat = y.toNat) :
    y = rankOf c h :=
  BitVec.eq_of_toNat_eq (hy.symm.trans (toNat_rankOf c h).symm)

/-- R158: in a valid table every symbol of the alphabet is the rank of a hop. -/
theorem exists_rankOf_eq {c : PassConfig} (hc : cfgValid c = true) (hy : y.toNat < nlOf c) :
    ∃ h : Nibble, h.toNat < nlOf c ∧ y = rankOf c h := by
  obtain ⟨-, honce, -⟩ := (prioValid_iff c).1 (cfgValid_prioValid hc)
  obtain ⟨k, ⟨hk, hrank⟩, -⟩ := honce y.toNat hy
  have hnl : nlOf c < 2 ^ 4 := c.numLevels.isLt
  have hnat : (BitVec.ofNat 4 k).toNat = k := Nat.mod_eq_of_lt (hk.trans hnl)
  exact ⟨BitVec.ofNat 4 k, by rwa [hnat], eq_rankOf_of_prioOf (by rwa [hnat])⟩

theorem symHops_rankOf (hc : cfgValid ch.cfg = true) (hh : h.toNat < nlOf ch.cfg) :
    symHops ch (rankOf ch.cfg h) = [h] := by
  have hm := ne_metaSym_of_lt (rankOf_lt hc hh)
  by_cases hr : rankOf ch.cfg h = 0
  · rw [symHops, if_neg hm, if_pos hr, eq_nullHop_of_rankOf hc hh hr]
  · rw [symHops, if_neg hm, if_neg hr, hopOf_eq hc hh (toNat_rankOf _ _).symm]

theorem symHops_lt (hc : cfgValid ch.cfg = true) (hcheck : symDecCheck ch y = none) :
    ∀ hop ∈ symHops ch y, hop.toNat < nlOf ch.cfg := by
  obtain ⟨rfl, -⟩ | ⟨-, hy, -⟩ := symDecCheck_eq_none_iff.1 hcheck
  · intro hop hmem
    rw [List.eq_of_mem_replicate hmem]
    exact nullHop_lt (cfgValid_one_le_nlOf hc)
  · obtain ⟨h, hh, rfl⟩ := exists_rankOf_eq hc hy
    simpa [symHops_rankOf hc hh] using hh

theorem symDecStep_of_ne (hm : y ≠ metaSym) :
    symDecStep ch y =
      { ch with
        symCount := ch.symCount + 1
        xlen := if y = 0 then ch.xlen else relaxedX ch
        run := if y = 0 then ch.run + 1 else 0 } := by
  rw [symDecStep, if_neg hm, relaxedX]
  by_cases h0 : y = 0
  · simp only [if_pos h0]
  · simp only [if_neg h0]
    split
    · next hn => rw [← hn]
    · rfl

theorem symDecStep_outQ (ch : Channel) (y : Byte) : (symDecStep ch y).outQ = ch.outQ := by
  unfold symDecStep
  split_ifs <;> rfl

end SymHops

/-! ### The reconstructor steps of a list of hops (R182, R184) -/

/-- The state after `RSTEP` of each hop, without the DREC words. -/
def reconSteps (p : Params) (ch : Channel) (hops : List Nibble) : Channel :=
  hops.foldl (reconStep p) ch

/-- The sample of each `RSTEP`. -/
def reconSamples (p : Params) : Channel → List Nibble → List Half
  | _, [] => []
  | ch, hop :: hops => reconSample p ch hop :: reconSamples p (reconStep p ch hop) hops

/-- The DREC word of each `RSTEP`. -/
def reconWords (p : Params) (ch : Channel) (hops : List Nibble) : List Word :=
  hops.zipWith drecWord (reconSamples p ch hops)

section ReconSteps

variable (p : Params) (ch : Channel) (hops : List Nibble)

theorem Channel.emitAll_emitAll (ws vs : List Word) :
    (ch.emitAll ws).emitAll vs = ch.emitAll (ws ++ vs) := by
  simp only [Channel.emitAll, List.append_assoc]

/-- The predictor does not see what the channel has emitted. -/
theorem reconSteps_emitAll (ws : List Word) :
    reconSteps p (ch.emitAll ws) hops = (reconSteps p ch hops).emitAll ws := by
  induction hops generalizing ch with
  | nil => rfl
  | cons hop hops ih => exact ih (reconStep p ch hop)

theorem reconSamples_emitAll (ws : List Word) :
    reconSamples p (ch.emitAll ws) hops = reconSamples p ch hops := by
  induction hops generalizing ch with
  | nil => rfl
  | cons hop hops ih => exact congrArg _ (ih (reconStep p ch hop))

theorem reconWords_emitAll (ws : List Word) :
    reconWords p (ch.emitAll ws) hops = reconWords p ch hops := by
  rw [reconWords, reconSamples_emitAll, reconWords]

/-- The steps and the words of `reconAll`, taken apart. -/
theorem reconAll_eq :
    reconAll p ch hops = (reconSteps p ch hops).emitAll (reconWords p ch hops) := by
  induction hops generalizing ch with
  | nil => simp [reconAll, reconSteps, reconWords, Channel.emitAll]
  | cons hop hops ih =>
    calc reconAll p ch (hop :: hops)
      _ = reconAll p ((reconStep p ch hop).emitAll [drecWord hop (reconSample p ch hop)]) hops :=
        rfl
      _ = (reconSteps p (reconStep p ch hop) hops).emitAll
            ([drecWord hop (reconSample p ch hop)] ++ reconWords p (reconStep p ch hop) hops) := by
        rw [ih, reconSteps_emitAll, reconWords_emitAll, Channel.emitAll_emitAll]
      _ = (reconSteps p ch (hop :: hops)).emitAll (reconWords p ch (hop :: hops)) := rfl

theorem reconAll_emitAll (ws : List Word) :
    reconAll p (ch.emitAll ws) hops =
      (reconSteps p ch hops).emitAll (ws ++ reconWords p ch hops) := by
  rw [reconAll_eq, reconSteps_emitAll, reconWords_emitAll, Channel.emitAll_emitAll]

theorem reconSteps_outQ : (reconSteps p ch hops).outQ = ch.outQ := by
  induction hops generalizing ch with
  | nil => rfl
  | cons hop hops ih => exact ih (reconStep p ch hop)

/-- The run state belongs to SYMDEC alone (R171). -/
theorem sameRun_reconAll : sameRun (reconAll p ch hops) ch := by
  induction hops generalizing ch with
  | nil => exact ⟨rfl, rfl⟩
  | cons hop hops ih => exact ih (reconEmit p ch hop)

theorem length_reconSamples : (reconSamples p ch hops).length = hops.length := by
  induction hops generalizing ch with
  | nil => rfl
  | cons hop hops ih => exact congrArg (· + 1) (ih (reconStep p ch hop))

/-- The last sample is the predictor's `r1`. -/
theorem reconSteps_r1 :
    (reconSteps p ch hops).r1 = (reconSamples p ch hops).getLast?.getD ch.r1 := by
  induction hops generalizing ch with
  | nil => rfl
  | cons hop hops ih =>
    rw [reconSamples, List.getLast?_cons, Option.getD_some]
    exact ih (reconStep p ch hop)

theorem reconWords_replicate (n : Nat) (hop : Nibble) :
    reconWords p ch (List.replicate n hop) =
      (reconSamples p ch (List.replicate n hop)).map (drecWord hop) := by
  induction n generalizing ch with
  | zero => rfl
  | succ n ih => exact congrArg _ (ih (reconStep p ch hop))

variable {p ch hops}

/-- R109: below the sample limit the index grows by one for each hop. -/
theorem reconSteps_idx (h : ch.idx.toNat + hops.length ≤ ch.cfg.sampleCount.toNat) :
    (reconSteps p ch hops).idx.toNat = ch.idx.toNat + hops.length := by
  induction hops generalizing ch with
  | nil => rfl
  | cons hop hops ih =>
    rw [List.length_cons] at h ⊢
    have hidx : (reconStep p ch hop).idx.toNat = ch.idx.toNat + 1 :=
      toNat_idx_add_one (ch := ch) (by omega)
    have hcfg : (reconStep p ch hop).cfg = ch.cfg := rfl
    have hrest := ih (ch := reconStep p ch hop) (by rw [hidx, hcfg]; omega)
    exact hrest.trans (by omega)

/-- The same hop `n` times: `n` words, `i` moved by `n`, the last sample in `r1` (R184). -/
theorem reconAll_replicate {n : Nat} {hop : Nibble}
    (h : ch.idx.toNat + n ≤ ch.cfg.sampleCount.toNat) :
    (reconAll p ch (List.replicate n hop)).idx.toNat = ch.idx.toNat + n ∧
      ∃ samples : List Half, samples.length = n ∧
        (reconAll p ch (List.replicate n hop)).outQ = ch.outQ ++ samples.map (drecWord hop) ∧
        ∀ last, samples.getLast? = some last →
          (reconAll p ch (List.replicate n hop)).r1 = last := by
  have hlen : (List.replicate n hop).length = n := List.length_replicate
  have hidx := reconSteps_idx (p := p) (by rwa [hlen])
  rw [reconAll_eq, reconWords_replicate]
  refine ⟨hidx.trans (by rw [hlen]), reconSamples p ch (List.replicate n hop),
    (length_reconSamples p ch _).trans hlen, ?_, fun last hlast => ?_⟩
  · rw [Channel.emitAll_outQ, reconSteps_outQ]
  · rw [Channel.emitAll_r1, reconSteps_r1, hlast, Option.getD_some]

/-- One QDEC for each hop, within the alphabet and the sample limit. -/
theorem runCommands_qdec {s : State} (hs : s.act.state = .decode)
    (hhops : ∀ hop ∈ hops, hop.toNat < nlOf s.act.cfg)
    (hcount : s.act.idx.toNat + hops.length ≤ s.act.cfg.sampleCount.toNat) :
    runCommands (hops.map .qdec) s =
      .next (s.setCh s.active (reconAll s.params s.act hops)) := by
  induction hops generalizing s with
  | nil => exact congrArg _ (s.setCh_self s.active).symm
  | cons hop hops ih =>
    rw [List.length_cons] at hcount
    have hidx : (reconEmit s.params s.act hop).idx.toNat = s.act.idx.toNat + 1 :=
      toNat_idx_add_one (ch := s.act) (by omega)
    have hcfg : (reconEmit s.params s.act hop).cfg = s.act.cfg := rfl
    have hexec := exec_qdec_of_accepted hs (hhops hop List.mem_cons_self) (by omega)
    have hact := s.act_setCh_active (reconEmit s.params s.act hop)
    rw [List.map_cons, runCommands_cons_of_next hexec, ih, hact, State.setCh_active,
      State.setCh_params, State.setCh_setCh]
    · rfl
    · rw [hact]
      exact hs
    · rw [hact]
      exact fun hop' hmem => hhops hop' (List.mem_cons_of_mem _ hmem)
    · rw [hact, hidx, hcfg]
      omega

end ReconSteps

/-! ### DEC (R182 to R185) -/

/-- Settles O40: one step for a symbol of the alphabet; for the meta-symbol the steps of its null
hops. -/
theorem decResult : Obligations.DecResult := by
  intro s y hs hc n x
  refine ⟨fun h hh hrank hn hcount => ?_, ?_⟩
  · intro word
    obtain rfl := eq_rankOf_of_prioOf hrank
    have hy := rankOf_lt hc hh
    have hm := ne_metaSym_of_lt hy
    have hcheck := symDecCheck_eq_none_iff.2 (.inr ⟨hm, hy, hn⟩)
    rw [exec_dec_of_accepted hs hcheck (by rwa [symHopCount_of_ne hm]), symHops_rankOf hc hh,
      symDecStep_of_ne hm, relaxedX_eq, ite_or]
    rfl
  · rintro rfl hn hcount oneHop start final
    have hcheck := symDecCheck_eq_none_iff.2 (.inl ⟨rfl, hn⟩)
    obtain ⟨hstate, hsyms⟩ := reconAll_frame s.params start (List.replicate x (nullHop s.act.cfg))
    obtain ⟨hxlen, hrun⟩ := sameRun_reconAll s.params start (List.replicate x (nullHop s.act.cfg))
    obtain ⟨hidx, hsamples⟩ := reconAll_replicate (p := s.params) (ch := start) hcount
    exact ⟨exec_dec_of_accepted hs hcheck hcount, hstate.trans hs, hidx, hxlen,
      hrun.trans ((run_eq_zero_iff _).2 hn), hsyms, hsamples⟩

/-- Settles O42: SDEC leaves the channel from which DEC's steps start, but for its HOP words, which
the steps do not see. -/
theorem decIsSdecThenQdecs : Obligations.DecIsSdecThenQdecs := by
  intro s t y hs hc hexec ht
  obtain hdone | ⟨code, -, hraise⟩ := exec_next_act hexec (ne_of_eq_of_ne hs (by decide))
  · obtain ⟨hcheck, hcount⟩ := decOn_done_accepted hdone
    obtain ⟨-, hact⟩ := decOn_done hdone
    obtain ⟨hstate, hidx, hcfg⟩ := symDecStep_frame s.act y
    have hout := symDecStep_outQ s.act y
    have hsdec := exec_sdec_of_done rfl hs
      (sdecOn_of_accepted hs hcheck (xlen_within_of_meta hcount))
    have hhops := symHops_lt hc hcheck
    rw [← length_symHops] at hcount
    generalize symDecStep s.act y = ch at *
    generalize symHops s.act y = hops at *
    have hmid := s.act_setCh_active (ch.emitAll (hops.map hopWord))
    have hqdecs := runCommands_qdec (hops := hops) (by rw [hmid]; exact hstate.trans hs)
      (by rw [hmid, Channel.emitAll_cfg, hcfg]; exact hhops)
      (by rw [hmid, Channel.emitAll_idx, Channel.emitAll_cfg, hidx, hcfg]; exact hcount)
    refine ⟨_, _, hops, reconWords s.params ch hops, hsdec, ?_, hqdecs, ?_, ?_, ?_⟩
    · rw [hmid, Channel.emitAll_outQ, hout]
    · rw [State.act_setCh_active, hmid, State.setCh_params, reconAll_emitAll,
        Channel.emitAll_outQ, Channel.emitAll_outQ, reconSteps_outQ, List.append_assoc]
    · rw [hact, reconAll_eq, Channel.emitAll_outQ, reconSteps_outQ, hout]
    · rw [State.act_setCh_active, hmid, State.setCh_params, reconAll_emitAll, hact, reconAll_eq]
      rfl
  · rw [hraise] at ht
    cases ht

end Sys2Proof.Machine

/-! SUPPORT. Faults and channels (60_exceptions.md R190 to R199; O43, O44). What a word or a write
changes beside its own channel, the codes that commands raise, and how a channel comes to be in
FAULT. -/

namespace Sys2Proof.Machine

/-! ### What stays beside one channel (R197) -/

/-- From `s` to `t` only channel `c` changed, and the model's own record of who runs and draws. -/
def ConfinedTo (c : Chan) (s t : State) : Prop :=
  (∀ other, other ≠ c → t.ch other = s.ch other) ∧ t.live = s.live ∧ t.params = s.params ∧
    t.host = s.host ∧ t.readLog = s.readLog ∧ t.schedule = s.schedule

theorem confinedTo_refl (c : Chan) (s : State) : ConfinedTo c s s :=
  ⟨fun _ _ => rfl, rfl, rfl, rfl, rfl, rfl⟩

theorem confinedTo_setCh (s : State) (c : Chan) (ch : Channel) (d : Nat) :
    ConfinedTo c s { s.setCh c ch with draws := d } := by
  refine ⟨fun other hne => ?_, ?_⟩
  · rw [State.ch_withDraws, State.ch_setCh_other s ch hne]
  · simp

theorem confinedTo_taken (s : State) (c : Chan) (q : Queued) (rest : List Queued) :
    ConfinedTo c s (s.taken c q rest) := by
  refine ⟨fun other hne => State.ch_taken_other s q rest hne, ?_⟩
  simp

theorem ConfinedTo.trans {c : Chan} {s t u : State} (hst : ConfinedTo c s t)
    (htu : ConfinedTo c t u) : ConfinedTo c s u := by
  obtain ⟨hch, hlive, hparams, hhost, hlog, hsched⟩ := hst
  obtain ⟨hch', hlive', hparams', hhost', hlog', hsched'⟩ := htu
  exact ⟨fun other hne => (hch' other hne).trans (hch other hne), hlive'.trans hlive,
    hparams'.trans hparams, hhost'.trans hhost, hlog'.trans hlog, hsched'.trans hsched⟩

/-! ### What a word writes (R70, R193) -/

/-- A command writes the channel that executes it and the count of draws. -/
theorem exec_frame {i : Instr} {s t : State} (h : exec i s = .next t) :
    ∃ d, t = { s.setCh s.active t.act with draws := d } := by
  obtain ⟨d, -, ⟨-, rfl⟩ | ⟨ch, -, rfl⟩ | ⟨-, code, -, rfl⟩⟩ := exec_next h
  · exact ⟨d, by rw [State.act_withDraws, State.act, State.setCh_self]⟩
  · exact ⟨d, by rw [State.act_setCh_withDraws]⟩
  · exact ⟨d, by rw [State.act_setCh_withDraws]⟩

theorem runWord_frame {s t : State} {c : Chan} {q : Queued} {rest : List Queued}
    (h : runWord s c q rest = .next t) :
    ∃ d, t = { (s.taken c q rest).setCh c (t.ch c) with draws := d } := by
  cases hq : decode q.word with
  | ok i =>
    rw [runWord_of_ok hq] at h
    have hact := exec_active h
    obtain ⟨d, ht⟩ := exec_frame h
    rw [State.act, hact, State.taken_active] at ht
    exact ⟨d, ht⟩
  | error e =>
    rw [runWord_of_error hq] at h
    obtain ⟨-, rfl⟩ | ⟨-, ⟨ch, hdone, -⟩ | ⟨code, -, rfl⟩⟩ := onActive_next h
    · exact ⟨_, by rw [State.setCh_self]⟩
    · cases hdone
    · exact ⟨_, by rw [State.taken_active, State.ch_setCh_same]⟩

theorem confinedTo_runWord {s t : State} {c : Chan} {q : Queued} {rest : List Queued}
    (h : runWord s c q rest = .next t) : ConfinedTo c s t := by
  obtain ⟨d, ht⟩ := runWord_frame h
  rw [ht]
  exact (confinedTo_taken s c q rest).trans (confinedTo_setCh _ c _ d)

/-! ### What a write to a channel's part of the window writes (R20, R65) -/

theorem Chan.base_disjoint {c d : Chan} (h : c ≠ d) :
    c.base + 0x40 ≤ d.base ∨ d.base + 0x40 ≤ c.base := by
  revert h
  cases c <;> cases d <;> decide

/-- R20: a channel's part of the window holds that channel's registers and nothing else. -/
theorem regAt_of_chanRange {n : NumChannels} {c : Chan} {off : Nat} (hlo : c.base ≤ off)
    (hhi : off < c.base + 0x40) : regAt n off = .reserved ∨ ∃ r, regAt n off = .chan c r := by
  cases hreg : regAt n off with
  | reserved => exact .inl rfl
  | cfg r =>
    have hoff : off = r.offset := offset_of_regAt hreg (by simp)
    have := r.offset_bounds
    cases c <;> simp only [Chan.base] at hlo <;> omega
  | chan c' r =>
    have hoff : off = c'.base + r.offset := offset_of_regAt hreg (by simp)
    have := r.offset_le
    obtain rfl | hne := eq_or_ne c' c
    · exact .inr ⟨r, rfl⟩
    · have := Chan.base_disjoint hne
      omega
  | _ =>
    have hoff := offset_of_regAt hreg (by simp)
    cases c <;> simp only [Reg.offset, Chan.base] at hoff hlo <;> omega

/-- A write to a channel register writes that channel, and takes at most a draw. -/
theorem regWrite_chan (s : State) (v : Word) (c : Chan) (r : ChReg) :
    ∃ d, regWrite s v (.chan c r) =
      { s.setCh c (chWrite s.params.cmdqDepth.toNat s.draws (s.ch c) v r) with draws := d } := by
  cases r with
  | firstAmp => exact ⟨s.draws + 1, rfl⟩
  | _ => exact ⟨s.draws, by cases c <;> rfl⟩

theorem confinedTo_busWrite {s : State} {c : Chan} {off : Nat} (hlo : c.base ≤ off)
    (hhi : off < c.base + 0x40) (v : Word) : ConfinedTo c s (busWrite s off v) := by
  obtain hreg | ⟨r, hreg⟩ := regAt_of_chanRange (n := s.params.numChannels) hlo hhi
  · rw [busWrite_reserved hreg]
    exact confinedTo_refl c s
  · rw [busWrite_of_regAt hreg]
    obtain ⟨d, hd⟩ := regWrite_chan s v c r
    rw [hd]
    exact confinedTo_setCh s c _ d

/-- Settles O44: a word and a write to a channel's registers are confined to their channel. -/
theorem channelsIsolated : Obligations.ChannelsIsolated := by
  refine ⟨fun s t c q rest h => confinedTo_runWord h, fun s off v => ?_⟩
  have hch0 : 0x100 ≤ off → off < 0x140 → ConfinedTo .ch0 s (busWrite s off v) :=
    fun hlo hhi => confinedTo_busWrite hlo hhi v
  have hch1 : 0x140 ≤ off → off < 0x180 → ConfinedTo .ch1 s (busWrite s off v) :=
    fun hlo hhi => confinedTo_busWrite hlo hhi v
  refine ⟨fun hlo hhi => ?_, fun hlo hhi => ?_, fun hlo hhi => ?_⟩
  · obtain ⟨hother, -⟩ := hch0 hlo hhi
    exact hother .ch1 (by decide)
  · obtain ⟨hother, -⟩ := hch1 hlo hhi
    exact hother .ch0 (by decide)
  · obtain h0 | h1 := Nat.lt_or_ge off 0x140
    · obtain ⟨-, hrest⟩ := hch0 hlo h0
      exact hrest
    · obtain ⟨-, hrest⟩ := hch1 h1 hhi
      exact hrest

/-! ### How a word takes its channel to FAULT (R191, R193) -/

section Raised

variable {p : Params} {latch : PassConfig} {ch ch' : Channel} {i : Instr} {code : ErrCode}

/-- A command that completes leaves its channel in FAULT only if it found it there, as a NOP may. -/
theorem verdictOf_done_not_fault (hf : ch.state ≠ .fault)
    (h : verdictOf p latch i ch = .done ch') : ch'.state ≠ .fault := by
  have hdata : ∀ {pass}, passOf i = some pass → pass ≠ .fault → ch'.state ≠ .fault :=
    fun hp hpass => ne_of_eq_of_ne (verdictOf_data_done hp h).2 hpass
  cases i with
  | nop hint => cases h; exact hf
  | start mode => rw [(startPass_done h).2]; cases mode <;> exact ChState.noConfusion
  | end_ => obtain ⟨-, rfl⟩ | ⟨-, rfl⟩ := endPass_done h <;> exact ChState.noConfusion
  | abort ignored => cases h; exact ChState.noConfusion
  | _ => exact hdata rfl (by decide)

theorem qencOn_raise {o : Half} (h : qencOn p o ch = .raise code) :
    code = .state ∨ code = .sample ∨ code = .count := by
  unfold qencOn at h
  split_ifs at h <;> cases h <;> simp

/-- ENC raises what QENC raises: its second half raises nothing. -/
theorem encOn_raise {o : Half} (h : encOn p o ch = .raise code) :
    qencOn p o ch = .raise code := by
  unfold encOn at h
  unfold qencOn
  split_ifs at h ⊢
  · exact h
  · exact h
  · exact h
  · exact absurd h (symEnc_ne_raise _ _ code)

theorem sencOn_raise {hop : Nibble} (h : sencOn hop ch = .raise code) :
    code = .state ∨ code = .hop := by
  unfold sencOn at h
  split_ifs at h
  · exact .inl (by cases h; rfl)
  · exact .inr (by cases h; rfl)
  · exact absurd h (symEnc_ne_raise ch hop code)

theorem qdecOn_raise {hop : Nibble} (h : qdecOn p hop ch = .raise code) :
    code = .state ∨ code = .hop ∨ code = .count := by
  unfold qdecOn at h
  split_ifs at h <;> cases h <;> simp

theorem sdecOn_raise {y : Byte} (h : sdecOn y ch = .raise code) :
    code = .state ∨ symDecCheck ch y = some code := by
  unfold sdecOn at h
  split at h
  · exact .inl (by cases h; rfl)
  split at h
  · next hcheck => exact .inr (by cases h; exact hcheck)
  · split_ifs at h

theorem decOn_raise {y : Byte} (h : decOn p y ch = .raise code) :
    code = .state ∨ code = .count ∨ symDecCheck ch y = some code := by
  unfold decOn at h
  split at h
  · exact .inl (by cases h; rfl)
  split at h
  · next hcheck => exact .inr (.inr (by cases h; exact hcheck))
  · split_ifs at h
    exact .inr (.inl (by cases h; rfl))

/-- R191: what a command raises is a code. -/
theorem verdictOf_raise_ne_none (h : verdictOf p latch i ch = .raise code) : code ≠ .none := by
  rintro rfl
  cases i with
  | nop hint => cases h
  | start mode => simpa using startPass_raise h
  | end_ => simpa using endPass_raise h
  | abort ignored => cases h
  | enc o => simpa using qencOn_raise (encOn_raise h)
  | qenc o => simpa using qencOn_raise h
  | senc hop => simpa using sencOn_raise h
  | dec y => simpa [symDecCheck_ne_some_none] using decOn_raise h
  | qdec hop => simpa using qdecOn_raise h
  | sdec y => simpa [symDecCheck_ne_some_none] using sdecOn_raise h

end Raised

theorem exec_enters_fault {i : Instr} {s t : State} (h : exec i s = .next t)
    (hs : s.act.state ≠ .fault) (ht : t.act.state = .fault) :
    ∃ code, code ≠ .none ∧ t.act = s.act.enterFault code := by
  obtain hdone | ⟨code, hraise, hact⟩ := exec_next_act h hs
  · exact absurd ht (verdictOf_done_not_fault hs hdone)
  · exact ⟨code, verdictOf_raise_ne_none hraise, hact⟩

theorem runWord_enters_fault {s t : State} {c : Chan} {q : Queued} {rest : List Queued}
    (h : runWord s c q rest = .next t) (hs : (s.ch c).state ≠ .fault)
    (ht : (t.ch c).state = .fault) :
    ∃ code, code ≠ .none ∧
      t.ch c = { s.ch c with cmdQ := rest, state := .fault, err := code } := by
  cases hq : decode q.word with
  | ok i =>
    rw [runWord_of_ok hq] at h
    have hact : t.ch c = t.act := by rw [State.act, exec_active h, State.taken_active]
    rw [hact] at ht ⊢
    obtain ⟨code, hcode, hfault⟩ := exec_enters_fault h (by rwa [State.act_taken]) ht
    exact ⟨code, hcode, by rw [hfault, State.act_taken, Channel.enterFault]⟩
  | error e =>
    rw [runWord_of_illegal rest (by simp [hq]) hs] at h
    cases h
    exact ⟨.opcode, by decide, State.ch_setCh_same _ c _⟩

/-! ### How a write takes a channel to FAULT (R193, R198) -/

/-- Of a channel's registers, a write to `CH_CMD` alone can raise a fault, and that is OVERFLOW. -/
theorem chWrite_enters_fault {depth draw : Nat} {ch : Channel} {v : Word} {r : ChReg}
    (hs : ch.state ≠ .fault) (ht : (chWrite depth draw ch v r).state = .fault) :
    r = .cmd ∧ chWrite depth draw ch v r = ch.enterFault .overflow := by
  cases r with
  | cmd =>
    obtain hroom | hfull := Nat.lt_or_ge ch.cmdQ.length depth
    · rw [chWrite, pushCmd_of_room hroom] at ht
      exact absurd ht hs
    · exact ⟨rfl, pushCmd_of_full hfull hs v⟩
  | firstAmp =>
    rw [chWrite] at ht
    split at ht <;> exact absurd ht hs
  | _ => exact absurd ht hs

theorem busWrite_enters_fault {s : State} {off : Nat} {v : Word} {c : Chan}
    (hs : (s.ch c).state ≠ .fault) (ht : ((busWrite s off v).ch c).state = .fault) :
    busWrite s off v = s.setCh c ((s.ch c).enterFault .overflow) := by
  cases hreg : regAt s.params.numChannels off with
  | ctrl =>
    rw [busWrite_of_regAt hreg, regWrite] at ht
    split at ht
    · rw [State.ch_resetBlock] at ht
      cases ht
    · exact absurd ht hs
  | cfg r =>
    rw [busWrite_of_regAt hreg, regWrite, State.ch_writeCfg] at ht
    exact absurd ht hs
  | chan c' r =>
    rw [busWrite_of_regAt hreg] at ht ⊢
    obtain ⟨d, hwrite⟩ := regWrite_chan s v c' r
    rw [hwrite, State.ch_withDraws] at ht
    obtain rfl | hne := eq_or_ne c c'
    · rw [State.ch_setCh_same] at ht
      obtain ⟨rfl, hpush⟩ := chWrite_enters_fault hs ht
      exact congrArg (s.setCh c) hpush
    · rw [State.ch_setCh_other s _ hne] at ht
      exact absurd ht hs
  | _ =>
    rw [busWrite_of_regAt hreg] at ht
    exact absurd ht hs

/-- R110, R193: no open pass is DONE. -/
theorem ChanInv.done_of_open {depth : Nat} {ch : Channel} (h : ChanInv depth ch)
    (hs : ch.state = .encode ∨ ch.state = .decode) : ch.done = false := by
  by_contra hdone
  have hclosed := h.doneClosed (by simpa using hdone)
  rcases hs with hs | hs <;> simp [hs] at hclosed

/-- Settles O43: a word writes its own channel, and that channel has taken the fault. -/
theorem faultEntryWritesNothingElse : Obligations.FaultEntryWritesNothingElse := by
  refine ⟨fun s t c q rest h hs ht => ?_, fun s off v c => busWrite_enters_fault,
    fun depth ch => ChanInv.done_of_open⟩
  obtain ⟨code, hcode, hch⟩ := runWord_enters_fault h hs ht
  obtain ⟨d, hframe⟩ := runWord_frame h
  exact ⟨code, d, hcode, by rw [← hch]; exact hframe⟩

end Sys2Proof.Machine

/-! SUPPORT. Reset and the hold on the output queue (70_reset_and_hazards.md R215 to R219, R228;
O53, O54, O58). -/

namespace Sys2Proof.Machine

/-! ### The control register (10_state.md R23; R215, R219) -/

theorem regAt_ctrlOffset (n : NumChannels) : regAt n 0x008 = .ctrl := rfl

theorem field_one_eq_ofBool (w : Word) (i : Nat) : field w i 1 = BitVec.ofBool (w.getLsbD i) := by
  refine BitVec.eq_of_getLsbD_eq fun j hj => ?_
  obtain rfl : j = 0 := by omega
  rw [getLsbD_field]
  simp

theorem busRead_ctrl (s : State) : busRead s 0x008 = (0, s) :=
  busRead_of_regAt (regAt_ctrlOffset _)

/-- Only bit 0 of the written word counts. -/
theorem busWrite_ctrl (s : State) (v : Word) :
    busWrite s 0x008 v = if v.getLsbD 0 = true then s.resetBlock else s := by
  rw [busWrite_of_regAt (regAt_ctrlOffset _), regWrite, field_one_eq_ofBool]
  cases v.getLsbD 0 <;> rfl

/-! ### The reset values (R53) -/

theorem map_busRead_cfg (s : State) :
    CfgReg.all.map (fun r => (busRead s r.offset).1) = CfgReg.all.map (cfgRead s.live) :=
  List.map_congr_left fun r _ => by rw [busRead_cfg]

theorem cfgRead_reset :
    CfgReg.all.map (cfgRead PassConfig.reset) =
      [0x00010009, 0x00000103, 0x00010000, 0x00040000, 0x00400004, 0x00000004, 0x7FFF8000,
        0x7FFFFFFF, 0x53102468, 0x0EDCBA97] := by decide

/-- Settles O53: a write to `CTRL` with bit 0 set is `resetBlock`, as the platform's reset is, and
the ten registers are then read out of `PassConfig.reset`. -/
theorem resetEffect : Obligations.ResetEffect := by
  intro s v
  refine ⟨busRead_ctrl s, fun hclear => ?_, fun hset => ?_⟩
  · rw [busWrite_ctrl, hclear, if_neg Bool.false_ne_true]
  · rw [busWrite_ctrl, if_pos hset]
    refine ⟨rfl, rfl, State.ch_resetBlock s, ?_⟩
    exact congrArg₂ List.cons (congrArg Prod.fst (busRead_ctrl _))
      ((map_busRead_cfg _).trans cfgRead_reset)

/-! ### START after reset (R102, R217) -/

theorem cfgValid_reset : cfgValid PassConfig.reset = true := by decide

/-- R217: the seed at reset lies in the bounds at reset. -/
theorem inBounds_reset : inBounds PassConfig.reset 0 = true := by decide

/-- With the reset values in the channel and latched, a START of either mode opens its pass. -/
theorem exec_start_of_wiped {s : State} {ch : Channel} (hact : s.act = ch.wipe)
    (hlatch : s.latched = PassConfig.reset) (mode : PassMode) :
    ∃ t, exec (.start mode) s = .next t ∧
      (t.ch s.active).state = openState mode ∧ (t.ch s.active).err = .none ∧
      (t.ch s.active).stepSize = 64 ∧ (t.ch s.active).xlen = 8 := by
  refine ⟨_, startOpensPass s mode (by rw [hact, Channel.wipe_state])
    (by rw [hlatch, cfgValid_reset])
    (fun _ => by rw [hlatch, hact, Channel.wipe_firstAmp, inBounds_reset]), ?_⟩
  rw [State.ch_setCh_same, hlatch, hact]
  cases mode <;> exact ⟨rfl, rfl, rfl, rfl⟩

/-- Settles O54: the queues are empty, and what a START checks holds of the reset values. -/
theorem startSucceedsAfterReset : Obligations.StartSucceedsAfterReset := by
  refine ⟨cfgValid_reset, fun s c => ?_⟩
  have hch : s.resetBlock.ch c = (s.ch c).wipe := s.ch_resetBlock c
  have hq : (s.resetBlock.ch c).cmdQ = [] := by rw [hch, Channel.wipe_cmdQ]
  refine ⟨by rw [hch, Channel.wipe_state], by rw [busyOf, hq]; rfl, ?_, ?_⟩
  · exact engineStep_of_not_canRun fun hcan => ((canRun_iff _ c).1 hcan).2.1 hq
  · exact exec_start_of_wiped (ch := s.ch c) (by cases c <;> rfl) (State.latched_of_no_race _ rfl)

/-! ### The hold on the output queue (R228) -/

theorem overfull_iff (s t : State) (c : Chan) :
    overfull s t c = true ↔
      (s.ch c).outQ.length < (t.ch c).outQ.length ∧
        s.params.outqDepth.toNat < (t.ch c).outQ.length := by
  simp [overfull]

/-- A head word that answers a next state is held exactly when its output is overfull there. -/
theorem heldBack_of_next {s t : State} {c : Chan} {q : Queued} {rest : List Queued}
    (hq : (s.ch c).cmdQ = q :: rest) (h : runWord s c q rest = .next t) :
    heldBack s c = (s.params.holdOutput && overfull s t c) := by
  simp [heldBack, hq, h]

/-- Settles O58: `heldBack_of_next` with the two parts of `overfull_iff`. -/
theorem heldCommandWaits : Obligations.HeldCommandWaits := by
  refine ⟨fun s t c q rest hhold hq h hgrow hdepth => ?_, fun s t c q rest hq h hfits => ?_,
    fun s c hfree => ?_⟩
  · have hheld : heldBack s c = true := by
      rw [heldBack_of_next hq h, hhold, (overfull_iff s t c).2 ⟨hgrow, hdepth⟩, Bool.and_self]
    refine ⟨engineStep_of_not_canRun fun hcan => ?_, by rw [busyOf, hq]; rfl⟩
    obtain ⟨-, -, hfree⟩ := (canRun_iff s c).1 hcan
    exact absurd (hheld.symm.trans hfree) (by decide)
  · have hroom : overfull s t c = false := by
      rw [← Bool.not_eq_true, overfull_iff]
      omega
    rw [heldBack_of_next hq h, hroom, Bool.and_false]
  · rw [heldBack, hfree, Bool.false_and]

end Sys2Proof.Machine
